-- ==== Sys2Proof/Word.lean ====
section
/-! DEFINITION. The stimulus word type: 30_encoding.md rule R70. -/

namespace Sys2Proof

/-- One stimulus word: 8 bits, the only input of a step (R11, R70). -/
abbrev Word := BitVec 8

end Sys2Proof
end

