-- ==== Sys2Proof/Syntax.lean ====
section
/-! DEFINITION. The stimulus words as syntax, one constructor per row of opcode_table.json: 30_encoding.md rule R71. -/

namespace Sys2Proof

/-- The four operations a legal stimulus word selects (R71). -/
inductive Instr where
  /-- NOP: no event in this step (R190). -/
  | nop
  /-- SMP r: one sample tick; `r` is the raw-pressed predicate, true when w[0] = 1 (R72, R103). -/
  | smp (r : Bool)
  /-- ENC b: one rising edge of line A; `b` is the level of line B at the edge, true when w[0] = 1,
  high, counter-clockwise (R72, R120). -/
  | enc (b : Bool)
  /-- RST: power-on reset (R191). -/
  | rst
  deriving DecidableEq, Repr

end Sys2Proof
end

