-- ==== Sys2Proof/Decode.lean ====
section
/-! DEFINITION. Decoder and encoder of stimulus words: 30_encoding.md rules R70 to R74. -/

namespace Sys2Proof

/-- OP, bits w[7:4]: the operation class (R70). -/
def fieldOp (w : Word) : BitVec 4 := w.extractLsb' 4 4

/-- Z, bits w[3:1]: reserved, must be 0 (R70). -/
def fieldZ (w : Word) : BitVec 3 := w.extractLsb' 1 3

/-- A, bit w[0]: the one-bit operand (R70, R72). -/
def fieldA (w : Word) : Bool := w.getLsbD 0

/-- The decoder of rule R74, total on the 256 byte values; `none` is `refuse(RESERVED_WORD)` (R73). -/
def decode (w : Word) : Option Instr :=
  if w = 0x00#8 then some .nop
  else if w &&& 0xFE#8 = 0x10#8 then some (.smp (fieldA w))
  else if w &&& 0xFE#8 = 0x20#8 then some (.enc (fieldA w))
  else if w = 0xF0#8 then some .rst
  else none

/-- `match` of the instruction's row in the table of rule R71. -/
def matchOf : Instr → Word
  | .nop => 0x00#8
  | .smp _ => 0x10#8
  | .enc _ => 0x20#8
  | .rst => 0xF0#8

/-- `mask` of the instruction's row in the table of rule R71. -/
def maskOf : Instr → Word
  | .nop => 0xFF#8
  | .smp _ => 0xFE#8
  | .enc _ => 0xFE#8
  | .rst => 0xFF#8

/-- The word laid out from its three fields, OP then Z then A (R70). -/
def assembleFields (op : BitVec 4) (z : BitVec 3) (a : Bool) : Word :=
  op ++ z ++ BitVec.ofBool a

/-- The encoder, from the field values of rules R70 and R71. -/
def encode : Instr → Word
  | .nop => assembleFields 0x0#4 0#3 false
  | .smp r => assembleFields 0x1#4 0#3 r
  | .enc b => assembleFields 0x2#4 0#3 b
  | .rst => assembleFields 0xF#4 0#3 false

/-- The word a table row's bits stand for: one byte, its bits above `nbits` zero. -/
def tableWord (nbits w : Nat) : Word := BitVec.ofNat 8 (w % 2 ^ nbits)

/-- What the decoder reads from a word numbered as opcode_table.json numbers it: one byte, bit 0 the
least significant (R8, R70). -/
def decodeTableWord (nbits w : Nat) : Option Instr := decode (tableWord nbits w)

end Sys2Proof
end

