-- ==== Sys2Proof/Config.lean ====
section
/-! DEFINITION. The implementation parameters of the brightness-controller block: 00_scope.md rules R5, R6, R7. -/

namespace Sys2Proof

/-- The configuration record of rule R5. Each literal of the source is only the default of a named
parameter (decision D28), and every rule is written over the names. The last block is timing only:
no rule of the block reads it (R172, R250). -/
structure Config where
  /-- DUTY_MIN: lowest duty-cycle percentage. -/
  dutyMin : Nat := 0
  /-- DUTY_MAX: highest duty-cycle percentage. -/
  dutyMax : Nat := 100
  /-- DUTY_STEP: change per encoder edge. -/
  dutyStep : Nat := 5
  /-- RESTORE_DEFAULT: brightness restored when the remembered value is 0. -/
  restoreDefault : Nat := 50
  /-- DB_TH: consecutive consistent samples for a verdict. -/
  dbTh : Nat := 3
  /-- Q_CAP: capacity of the event queue in entries. -/
  qCap : Nat := 100
  /-- PWM_RES: PWM resolution in levels. -/
  pwmRes : Nat := 1000
  /-- PWM_TOP: PWM counter top (wrap) value. -/
  pwmTop : Nat := 999
  /-- N_CH: LED channels driven in lockstep. -/
  nCh : Nat := 3
  /-- HOLD_TICKS: sample ticks spent in one hold wait (decision D5). -/
  holdTicks : Nat := 5
  /-- REM_RESET: reset value of REM (decision D6). -/
  remReset : Nat := 0
  /-- SAMPLE_MS: period of the sample tick, timing only. -/
  sampleMs : Nat := 10
  /-- HOLD_MS: hold-loop poll period, timing only. -/
  holdMs : Nat := 50
  /-- PWM_CLK_HZ: PWM counter clock, timing only. -/
  pwmClkHz : Nat := 1000000
  /-- PWM_FREQ_HZ: PWM frequency, timing only. -/
  pwmFreqHz : Nat := 1000
  deriving DecidableEq, Repr

/-- Every parameter at its default of rule R5. -/
def Config.default : Config := {}

/-- A legal duty value: a multiple of DUTY_STEP in [DUTY_MIN, DUTY_MAX] (R22, R34 I1). -/
abbrev Config.LegalDuty (c : Config) (p : Nat) : Prop :=
  c.dutyMin ≤ p ∧ p ≤ c.dutyMax ∧ p % c.dutyStep = 0

/-- Bits needed to hold every value from 0 to `n`, at least one. DESIGN CHOICE, safe (log 22): a range of
0 alone, which R7's "smallest" leaves to a reading, still has a register of one bit. -/
def Config.bitsFor (n : Nat) : Nat := n.log2 + 1

/-- Width of a compare level. DEDUCED, safe (log 6): R7 gives 11 bits for the default PWM_RES, one
more than the smallest width for 0 .. 1000, and the smallest width for every other PWM_RES. -/
def Config.ccWidth (c : Config) : Nat :=
  if c.pwmRes = 1000 then 11 else Config.bitsFor c.pwmRes

/-- BTN_ACTIVE_LOW, the OPEN parameter of decision D18: whether a pressed button pulls its pin low.
It has no value in the spec, so it has none here (log 13). No rule of the block reads it. -/
opaque Config.btnActiveLow : Bool

end Sys2Proof
end

