-- ==== Sys2Proof/Machine/State.lean ====
section
/-! DEFINITION. The machine's state, its reset, and the ways a step can stop: 10_state.md rules R22 to R36, 60_exceptions.md rules R200, R201. -/

namespace Sys2Proof.Machine

/-- PWR, the PowerState (R23); encoded 0 = OFF, 1 = ON. -/
inductive Power where
  | off
  | on
  deriving DecidableEq, Repr

/-- PHASE, where the main control loop stands (R26); encoded 0, 1, 2, 3 in this order. -/
inductive Phase where
  /-- TEST (0): the loop's own debounce call, the one that may toggle. -/
  | test
  /-- HOLD_POLL (1): a debounce call of the hold loop after a toggle. -/
  | holdPoll
  /-- HOLD_WAIT (2): the hold loop's fixed sleep between two polls. -/
  | holdWait
  /-- The reserved value 3: unreachable, and a state holding it is refused (R26, R202). -/
  | reserved
  deriving DecidableEq, Repr

/-- The names of the registers, in the order of the table of rule R22. -/
inductive Reg where
  | pwr
  | duty
  | rem
  | phase
  | dbp
  | dbr
  | hwc
  | qlen
  /-- CC[i], index 8 + i. -/
  | cc (i : Nat)
  /-- The queue itself, the last row of the table, without an index. -/
  | q
  deriving DecidableEq, Repr

/-- The state: every register of rule R22 and the queue, and two fields that are the model's own.
QLEN is the length of `q` (R29). Every quantity is a natural number (R8); the widths of R7 are a
statement about legal states, not a restriction of the type (log 5). -/
structure State where
  /-- The configuration record: no state of the block (R37), carried here so that a step takes it as
  an argument, as R5 asks (log 3). No operation writes it. -/
  cfg : Config
  /-- PWR (R23). -/
  pwr : Power
  /-- DUTY, the brightness accumulator (R24). -/
  duty : Nat
  /-- REM, the remembered brightness (R25). -/
  rem : Nat
  /-- PHASE (R26). -/
  phase : Phase
  /-- DBP, the debounce filter's press counter (R27). -/
  dbp : Nat
  /-- DBR, the debounce filter's release counter (R27). -/
  dbr : Nat
  /-- HWC, the sample ticks left in the hold wait (R28). -/
  hwc : Nat
  /-- Q, the event queue, oldest entry first (R29, R52). -/
  q : List Nat
  /-- CC[0] .. CC[N_CH-1], the compare levels, the block's outputs (R30). -/
  cc : List Nat
  /-- The stimulus words the environment has presented and no step has processed yet, next word first
  (R11, R75). The model's own field (log 1). -/
  stim : List Word
  deriving DecidableEq, Repr

/-- The reset state of rule R36 under configuration `c`, with the words `stim` still to come. -/
def State.resetOf (c : Config) (stim : List Word) : State where
  cfg := c
  pwr := .off
  duty := 0
  rem := c.remReset
  phase := .test
  dbp := 0
  dbr := 0
  hwc := 0
  q := []
  cc := List.replicate c.nCh 0
  stim := stim

/-- The machine right after power-on (R36, R230) with the default parameters of R5 (log 4) and no word
presented yet (log 1). -/
def State.reset : State := State.resetOf Config.default []

/-- The block raises no exception and has no trap (R200), so no step ends in a fault: this type has no
constructor. -/
inductive Fault where
  deriving DecidableEq, Repr

/-- Why a step is given no meaning (R201). -/
inductive Refusal where
  /-- Raised by an arm of `exec` whose instruction has no meaning yet; no arm does. Safe. -/
  | notModelled (mnemonic : String)
  /-- RESERVED_WORD, code 1: raised by the decoder on a reserved word, which it records (R73, R74).
  Safe: nothing is claimed of a stream that holds one (decision D17). -/
  | reservedWord (w : Word)
  /-- PHASE_RESERVED, code 2: raised by the state check and by SMP when PHASE holds 3, the recorded
  value (R103, R202). Safe: unreachable from reset. -/
  | phaseReserved (phase : BitVec 2)
  /-- STATE_OUT_OF_INVARIANT, code 3: raised by the state check before any word but RST, recording the
  first register that breaks R34 (R201, R202). Safe: unreachable from reset (decision D27). -/
  | stateOutOfInvariant (r : Reg)
  deriving DecidableEq, Repr

end Sys2Proof.Machine
end

