-- ==== Sys2Proof/Machine/Ops.lean ====
section
/-! DEFINITION. The named writes of the registers and the operations on the event queue: 00_scope.md rule R9, 20_memory.md rules R52 to R54. -/

namespace Sys2Proof.Machine

/-- `S.PWR <- v`. -/
def State.setPwr (s : State) (v : Power) : State := { s with pwr := v }

/-- `S.DUTY <- v`. -/
def State.setDuty (s : State) (v : Nat) : State := { s with duty := v }

/-- `S.REM <- v`. -/
def State.setRem (s : State) (v : Nat) : State := { s with rem := v }

/-- `S.PHASE <- v`. -/
def State.setPhase (s : State) (v : Phase) : State := { s with phase := v }

/-- `S.DBP <- v`. -/
def State.setDbp (s : State) (v : Nat) : State := { s with dbp := v }

/-- `S.DBR <- v`. -/
def State.setDbr (s : State) (v : Nat) : State := { s with dbr := v }

/-- `S.HWC <- v`. -/
def State.setHwc (s : State) (v : Nat) : State := { s with hwc := v }

/-- `Q <- v`. -/
def State.setQ (s : State) (v : List Nat) : State := { s with q := v }

/-- `S.CC <- v`, all channels at once. -/
def State.setCc (s : State) (v : List Nat) : State := { s with cc := v }

/-- the words still to come become `v`. -/
def State.setStim (s : State) (v : List Word) : State := { s with stim := v }

/-- QLEN, the read-only view of the queue's length (R22, R29). -/
def State.qlen (s : State) : Nat := s.q.length

/-- `QPush(v)`: append at the tail when the queue has room; a full queue drops `v` silently (R53). -/
def qPush (v : Nat) (s : State) : State :=
  if s.qlen < s.cfg.qCap then s.setQ (s.q ++ [v]) else s

/-- `QPop()`: remove and return the oldest entry; `none` is the empty queue, on which R54 never calls it. -/
def qPop (s : State) : Option (Nat × State) :=
  match s.q with
  | [] => none
  | x :: q => some (x, s.setQ q)

/-- `S <- ResetState`: every register and the queue as in R36; configuration and the words still to come
are not the block's state and stay (R37, R191). -/
def resetAll (s : State) : State := State.resetOf s.cfg s.stim

end Sys2Proof.Machine
end

