-- ==== Sys2Proof/Machine/Flags.lean ====
section
/-! DEFINITION. The block's status indications: 10_state.md rule R31. There is no condition-code register. -/

namespace Sys2Proof.Machine

/-- ButtonVerdict: made inside a sample step and consumed in the same step, never stored (R31). "No
verdict yet", NONE in R101, is `Option.none`. -/
inductive Verdict where
  | pressed
  | released
  deriving DecidableEq, Repr

/-- Queue empty, QLEN = 0: derived from Q, read by the drain (R31, R148). -/
def queueEmpty (s : State) : Bool := s.qlen == 0

/-- Queue full, QLEN = Q_CAP: derived from Q (R31). -/
def queueFull (s : State) : Bool := s.qlen == s.cfg.qCap

end Sys2Proof.Machine
end

