-- ==== Sys2Proof/Machine/Pwm.lean ====
section
/-! DEFINITION. The PWM duty-cycle controller: 43_pwm.md rules R170 to R173. -/

namespace Sys2Proof.Machine

/-- `Level(p)`: the compare level for a duty percentage, product first, then division (R170). -/
def level (c : Config) (p : Nat) : Nat := c.pwmRes * p / 100

/-- `Apply(p)`: the level of `p` into all N_CH channels in one step (R171). -/
def applyDuty (p : Nat) (s : State) : State :=
  s.setCc (List.replicate s.cfg.nCh (level s.cfg p))

/-- Counts of one PWM period, PWM_TOP + 1 counts long, during which an output with compare level `l` is
high. PRESUMED (log 14): R173 takes the counting rule from general knowledge and marks it informative;
no step reads this. -/
def highCounts (c : Config) (l : Nat) : Nat := min l (c.pwmTop + 1)

end Sys2Proof.Machine
end

