-- ==== Sys2Proof/Machine/Controller.lean ====
section
/-! DEFINITION. The brightness controller's internal operations, which run inside an SMP step: 42_controller.md rules R142 to R151. -/

namespace Sys2Proof.Machine

/-- `ToggleOn()`, OFF → ON: a remembered 0 is replaced by RESTORE_DEFAULT (R146). -/
def toggleOn (s : State) : State :=
  let s1 := s.setDuty (if s.rem = 0 then s.cfg.restoreDefault else s.rem)
  (applyDuty s1.duty s1).setPwr .on

/-- `ToggleOff()`, ON → OFF: REM takes DUTY, zero included (R147, 90_conflicts.md C1). -/
def toggleOff (s : State) : State :=
  let s1 := s.setRem s.duty
  let s2 := s1.setDuty 0
  (applyDuty 0 s2).setPwr .off

/-- `Toggle()`: the transition of the current power state (R145). -/
def toggle (s : State) : State :=
  match s.pwr with
  | .off => toggleOn s
  | .on => toggleOff s

/-- `DrainAttempt()`: while ON, one entry of a non-empty queue into DUTY and the compare levels (R148);
while OFF nothing (R149). -/
def drainAttempt (s : State) : State :=
  match s.pwr with
  | .off => s
  | .on =>
    match qPop s with
    | none => s
    | some (x, s1) => applyDuty x (s1.setDuty x)

/-- `EndIteration()`: the drain attempt, then the next iteration's button test (R144). -/
def endIteration (s : State) : State := (drainAttempt s).setPhase .test

/-- `EnterHoldWait()`: the start of the hold loop's fixed sleep (R150). -/
def enterHoldWait (s : State) : State :=
  if s.cfg.holdTicks = 0 then s.setPhase .holdPoll
  else (s.setPhase .holdWait).setHwc s.cfg.holdTicks

/-- `HoldTick()`: one sample tick of the hold wait (R151). -/
def holdTick (s : State) : State :=
  let s1 := s.setHwc (s.hwc - 1)
  if s1.hwc = 0 then s1.setPhase .holdPoll else s1

/-- `OnTestVerdict(v)`: PRESSED toggles and enters the hold loop; RELEASED ends the iteration (R142). -/
def onTestVerdict (v : Verdict) (s : State) : State :=
  match v with
  | .pressed => (toggle s).setPhase .holdPoll
  | .released => endIteration s

/-- `OnHoldVerdict(v)`: only RELEASED leaves the hold loop; PRESSED never toggles (R143). -/
def onHoldVerdict (v : Verdict) (s : State) : State :=
  match v with
  | .released => endIteration s
  | .pressed => enterHoldWait s

end Sys2Proof.Machine
end

