-- ==== Sys2Proof/Machine/Invariant.lean ====
section
/-! DEFINITION. The state invariants and the state check before a word's rule: 10_state.md rule R34, 60_exceptions.md rules R201, R202. -/

namespace Sys2Proof.Machine

/-- DUTY, REM and every queue entry are legal duty values (R34 I1). -/
abbrev I1 (s : State) : Prop :=
  s.cfg.LegalDuty s.duty ∧ s.cfg.LegalDuty s.rem ∧ ∀ x ∈ s.q, s.cfg.LegalDuty x

/-- OFF implies that every compare level is 0 (R34 I2). -/
abbrev I2 (s : State) : Prop := s.pwr = .off → ∀ l ∈ s.cc, l = 0

/-- The N_CH compare levels are all the level of one legal duty value (R34 I3). The range only makes the
check a finite one: a legal value is at most DUTY_MAX. -/
abbrev I3 (s : State) : Prop :=
  s.cc.length = s.cfg.nCh ∧
  ∃ p ∈ List.range (s.cfg.dutyMax + 1), s.cfg.LegalDuty p ∧ ∀ l ∈ s.cc, l = level s.cfg p

/-- One debounce counter is 0 and both are below DB_TH (R34 I4). -/
abbrev I4 (s : State) : Prop :=
  (s.dbp = 0 ∨ s.dbr = 0) ∧ s.dbp < s.cfg.dbTh ∧ s.dbr < s.cfg.dbTh

/-- PHASE is one of its three values, HWC counts exactly in HOLD_WAIT, and the debounce counters are 0
there (R34 I5). -/
abbrev I5 (s : State) : Prop :=
  s.phase ≠ .reserved ∧
  (s.phase = .holdWait ↔ 1 ≤ s.hwc ∧ s.hwc ≤ s.cfg.holdTicks) ∧
  (s.phase ≠ .holdWait → s.hwc = 0) ∧
  (s.phase = .holdWait → s.dbp = 0 ∧ s.dbr = 0)

/-- The queue holds at most Q_CAP entries (R34 I6). -/
abbrev I6 (s : State) : Prop := s.qlen ≤ s.cfg.qCap

/-- The state invariants I1 to I6 of rule R34. I7 speaks of the points right after a toggle or a drain
and I8 allows something, so neither is a condition on one state. -/
abbrev Inv (s : State) : Prop := I1 s ∧ I2 s ∧ I3 s ∧ I4 s ∧ I5 s ∧ I6 s

/-- The first register in index order that breaks an invariant (R201). A part of R34 that names several
registers counts for the first of them. DEDUCED, safe (log 8): so V-EX-5 reports a break of I4 as DBP,
and HWC, which only I5 names, after PHASE, has no line of its own. -/
def firstBroken (s : State) : Option Reg :=
  if ¬ I2 s then some .pwr
  else if ¬ s.cfg.LegalDuty s.duty then some .duty
  else if ¬ s.cfg.LegalDuty s.rem then some .rem
  else if ¬ I5 s then some .phase
  else if ¬ ((s.dbp = 0 ∨ s.dbr = 0) ∧ s.dbp < s.cfg.dbTh) then some .dbp
  else if ¬ s.dbr < s.cfg.dbTh then some .dbr
  else if ¬ I6 s then some .qlen
  else if ¬ I3 s then some (.cc 0)
  else if ¬ ∀ x ∈ s.q, s.cfg.LegalDuty x then some .q
  else none

/-- The state check: PHASE = 3 first, reported as code 2 whatever else is broken, then any other break
of R34 as code 3 (R202). -/
def stateCheck (s : State) : Option Refusal :=
  if s.phase = .reserved then some (.phaseReserved 3#2)
  else (firstBroken s).map .stateOutOfInvariant

/-- Run a word's rule after the state check: "any word but RST, checked before its rule runs" (R201). -/
def guarded (s : State) (rule : State → Host.Outcome State Fault Refusal) :
    Host.Outcome State Fault Refusal :=
  match stateCheck s with
  | some r => .refused r
  | none => rule s

end Sys2Proof.Machine
end

