-- ==== Sys2Proof/Machine/Debounce.lean ====
section
/-! DEFINITION. The debounce filter and the SMP word: 40_debounce.md rules R101 to R105. -/

namespace Sys2Proof.Machine

/-- `Debounce(r)`: one sample into the two run counters; a completed run gives the verdict and clears
both (R101). `none` is NONE, the call has not finished. -/
def debounce (r : Bool) (s : State) : State × Option Verdict :=
  let p := if r then s.dbp + 1 else 0
  let q := if r then 0 else s.dbr + 1
  if p = s.cfg.dbTh then ((s.setDbp 0).setDbr 0, some .pressed)
  else if q = s.cfg.dbTh then ((s.setDbp 0).setDbr 0, some .released)
  else ((s.setDbp p).setDbr q, none)

/-- One debounce sample followed, when it completes a call, by the handler of its verdict (R103). -/
def sample (r : Bool) (onVerdict : Verdict → State → State) (s : State) : State :=
  match debounce r s with
  | (s1, none) => s1
  | (s1, some v) => onVerdict v s1

/-- The rule of SMP by phase (R103): the sample is ignored in HOLD_WAIT. -/
def smpRule (r : Bool) (s : State) : Host.Outcome State Fault Refusal :=
  match s.phase with
  | .test => .next (sample r onTestVerdict s)
  | .holdPoll => .next (sample r onHoldVerdict s)
  | .holdWait => .next (holdTick s)
  | .reserved => .refused (.phaseReserved 3#2)

/-- SMP r (R103), after the state check of R201. -/
def execSmp (r : Bool) (s : State) : Host.Outcome State Fault Refusal := guarded s (smpRule r)

end Sys2Proof.Machine
end

