-- ==== Sys2Proof/Machine/Operands.lean ====
section
/-! DEFINITION. The meaning of the one-bit operands: 30_encoding.md rule R72, 40_debounce.md rule R104. -/

namespace Sys2Proof.Machine

/-- The rotation direction that an ENC operand selects (R72). -/
inductive Direction where
  /-- Clockwise, increase. -/
  | cw
  /-- Counter-clockwise, decrease. -/
  | ccw
  deriving DecidableEq, Repr

/-- B low (`b` = 0) at the moment A rises is clockwise; B high is counter-clockwise (R72, R120). -/
def direction (b : Bool) : Direction := if b then .ccw else .cw

/-- The Input Sampler's predicate from a button pin level, outside the block: pressed is the low level
when BTN_ACTIVE_LOW, else the high level (R104, decision D18). -/
def rawPressed (pinHigh : Bool) : Bool :=
  if Config.btnActiveLow then !pinHigh else pinHigh

end Sys2Proof.Machine
end

