-- ==== Sys2Proof/Machine/Encoder.lean ====
section
/-! DEFINITION. The encoder event detector and the ENC word: 41_encoder.md rules R120 to R125. -/

namespace Sys2Proof.Machine

/-- Write the new accumulator value and publish it; a full queue loses only the push (R124). -/
def publish (v : Nat) (s : State) : State :=
  let s1 := s.setDuty v
  qPush s1.duty s1

/-- `EncIncrease()` (R122): nothing at DUTY_MAX. -/
def encIncrease (s : State) : State :=
  if s.duty < s.cfg.dutyMax then publish (min (s.duty + s.cfg.dutyStep) s.cfg.dutyMax) s else s

/-- `EncDecrease()` (R123): nothing at DUTY_MIN. -/
def encDecrease (s : State) : State :=
  if s.cfg.dutyMin < s.duty then publish (max (s.duty - s.cfg.dutyStep) s.cfg.dutyMin) s else s

/-- The rule of ENC: the direction selects the operation (R120). -/
def encRule (b : Bool) (s : State) : State :=
  match direction b with
  | .cw => encIncrease s
  | .ccw => encDecrease s

/-- ENC b (R120), after the state check of R201. -/
def execEnc (b : Bool) (s : State) : Host.Outcome State Fault Refusal :=
  guarded s fun s => .next (encRule b s)

end Sys2Proof.Machine
end

