-- ==== Sys2Proof/Machine/System.lean ====
section
/-! DEFINITION. The NOP and RST words: 44_system.md rules R190, R191. -/

namespace Sys2Proof.Machine

/-- NOP: no state changes (R190). DEDUCED, safe (log 9): it is checked first like any word but RST. -/
def execNop (s : State) : Host.Outcome State Fault Refusal := guarded s .next

/-- RST: power-on reset, legal in every state and never checked, since it reads no state (R191, R202). -/
def execRst (s : State) : Host.Outcome State Fault Refusal := .next (resetAll s)

end Sys2Proof.Machine
end

