-- ==== Sys2Proof/Machine/Dispatch.lean ====
section
/-! DEFINITION. One arm per instruction: opcode_table.json. -/

namespace Sys2Proof.Machine

/-- What each decoded word does. -/
def exec (i : Instr) (s : State) : Host.Outcome State Fault Refusal :=
  match i with
  | .nop => Sys2Proof.Machine.execNop s
  | .smp r => Sys2Proof.Machine.execSmp r s
  | .enc b => Sys2Proof.Machine.execEnc b s
  | .rst => Sys2Proof.Machine.execRst s

end Sys2Proof.Machine
end

