-- ==== Sys2Proof/Machine/Stimulus.lean ====
section
/-! DEFINITION. How the environment's words reach the block, and the step on one word: 00_scope.md rule R11, 30_encoding.md rule R75, 60_exceptions.md rules R202, R204. -/

namespace Sys2Proof.Machine

/-- `Step(S, w)` (R11): decode, then run. A reserved word is refused before the state is examined
(R202), and the refusal records the word (R201). -/
def stepWord (w : Word) (s : State) : Host.Outcome State Fault Refusal :=
  match decode w with
  | none => .refused (.reservedWord w)
  | some i => exec i s

/-- One step of the machine: the next pending word is taken from the stream and run. DESIGN CHOICE, safe
(log 2): with no word pending the block does not step, and the state stays. -/
def takeStep (s : State) : Host.Outcome State Fault Refusal :=
  match s.stim with
  | [] => .next s
  | w :: ws => stepWord w (s.setStim ws)

/-- The environment presents `ws`, after the words already pending (R57: one total order). -/
def State.present (s : State) (ws : List Word) : State := s.setStim (s.stim ++ ws)

/-- The input signals of rule R75 in one clock: the level of `por`; `smp_tick` with `btn_pressed`;
`enc_a_rise` with `enc_b`. The last two are events, `none` when the event does not fire in this clock (log 21). -/
structure Wires where
  por : Bool
  smpTick : Option Bool
  encARise : Option Bool
  deriving DecidableEq, Repr

/-- The words of the events of one clock, in the reference order RST, then ENC, then SMP (R75). `porBefore`
is the level of `por` in the clock before: RST is presented once while `por` is asserted, in the first clock
of the assertion (log 21). DESIGN CHOICE (log 24): no signal presents NOP, so a clock in which nothing fires
presents no word. -/
def Wires.words (porBefore : Bool) (x : Wires) : List Word :=
  (if x.por && !porBefore then [encode .rst] else []) ++
  (x.encARise.map fun b => encode (.enc b)).toList ++
  (x.smpTick.map fun r => encode (.smp r)).toList

/-- The orders in which the words of one clock may be presented: every one (R75, R204). -/
def Wires.Admits (porBefore : Bool) (x : Wires) (ws : List Word) : Prop := ws.Perm (x.words porBefore)

/-- The stream of the reference realisation over a sequence of clocks (R75). -/
def Wires.wordsOver (porBefore : Bool) : List Wires → List Word
  | [] => []
  | x :: xs => x.words porBefore ++ wordsOver x.por xs

/-- The streams that a sequence of clocks may present: the clocks in order, the words of each clock in any
order (R57, R75, R204). -/
def Wires.AdmitsOver (porBefore : Bool) : List Wires → List Word → Prop
  | [], ws => ws = []
  | x :: xs, ws => ∃ now later, ws = now ++ later ∧ x.Admits porBefore now ∧ AdmitsOver x.por xs later

end Sys2Proof.Machine
end

