-- ==== Sys2Proof/Machine/Step.lean ====
section
/-! DEFINITION. The step function, and the host's placing of a word: 00_scope.md rule R11. -/

namespace Sys2Proof.Machine

/-- One step: next, fault (never, R200) or refusal (R201). -/
def step (s : State) : Host.Outcome State Fault Refusal := takeStep s

/-- `s` with the table's word as the next word of the stream: the environment presents it before the
words already pending (log 1). The next step runs it. -/
def State.withFetchWord (s : State) (nbits w : Nat) : State :=
  s.setStim (tableWord nbits w :: s.stim)

end Sys2Proof.Machine
end

