-- ==== Sys2Proof/Machine/Assembler.lean ====
section
/-! DEFINITION. Stimulus streams as text: the pseudo-instructions and the line syntax of 30_encoding.md rules R76, R77. -/

namespace Sys2Proof.Machine

/-- One line of a stimulus stream: a base form, a pseudo-instruction or a repetition (R76, R77). -/
inductive Line where
  | base (i : Instr)
  /-- SMP.P, one pressed sample. -/
  | smpP
  /-- SMP.R, one released sample. -/
  | smpR
  /-- CW, one clockwise edge. -/
  | cw
  /-- CCW, one counter-clockwise edge. -/
  | ccw
  | press
  | idle
  | wait
  | click
  /-- REP n, X. -/
  | rep (n : Nat) (l : Line)
  deriving DecidableEq, Repr

/-- The expansion of a line (R77). -/
def Line.expand (c : Config) : Line → List Instr
  | .base i => [i]
  | .smpP => [.smp true]
  | .smpR => [.smp false]
  | .cw => [.enc false]
  | .ccw => [.enc true]
  | .press => List.replicate c.dbTh (.smp true)
  | .idle => List.replicate c.dbTh (.smp false)
  | .wait => List.replicate c.holdTicks (.smp true)
  | .click => List.replicate c.dbTh (.smp true) ++ List.replicate c.dbTh (.smp false)
  | .rep n l => (List.replicate n (l.expand c)).flatten

/-- The words of a stream, in stream order, one byte each (R51, R76). -/
def assemble (c : Config) (ls : List Line) : List Word :=
  (ls.flatMap (Line.expand c)).map encode

/-- A line up to its comment, which `;` begins (R76). -/
def stripComment : List Char → List Char
  | [] => []
  | ch :: cs => if ch = ';' then [] else ch :: stripComment cs

/-- The words of a line between spaces; `cur` is the word being read. -/
def tokensFrom (cur : List Char) : List Char → List (List Char)
  | [] => if cur = [] then [] else [cur]
  | ch :: cs =>
    if ch = ' ' then (if cur = [] then tokensFrom [] cs else cur :: tokensFrom [] cs)
    else tokensFrom (cur ++ [ch]) cs

/-- The value of a hexadecimal digit. -/
def hexDigit (ch : Char) : Option Nat :=
  if '0' ≤ ch ∧ ch ≤ '9' then some (ch.toNat - '0'.toNat)
  else if 'A' ≤ ch ∧ ch ≤ 'F' then some (ch.toNat - 'A'.toNat + 10)
  else if 'a' ≤ ch ∧ ch ≤ 'f' then some (ch.toNat - 'a'.toNat + 10)
  else none

/-- A decimal number closed by a comma, the count of REP; `acc` is the value read so far. -/
def countFrom (acc : Nat) : List Char → Option Nat
  | [] => none
  | ch :: cs =>
    if ch = ',' ∧ cs = [] then some acc
    else if '0' ≤ ch ∧ ch ≤ '9' then countFrom (10 * acc + (ch.toNat - '0'.toNat)) cs
    else none

/-- A byte of two hexadecimal digits (R76). -/
def hexByte : List Char → Option Word
  | [hi, lo] => do
    let h ← hexDigit hi
    let l ← hexDigit lo
    pure (BitVec.ofNat 8 (16 * h + l))
  | _ => none

/-- The form X of `REP n, X` written as one hexadecimal byte, the word of a base form. DESIGN CHOICE, safe
(log 17): R76 does not say that X may be a byte; `REP 23, 11` of 95_test_vectors.md is so read. A reserved
byte and a list of bytes are no form. -/
def hexForm : List (List Char) → Option Line
  | [text] => ((hexByte text).bind decode).map .base
  | _ => none

/-- A line from its words: a mnemonic, its operand if it has one, or REP and a form (R76, R77). -/
def parseTokens : List (List Char) → Option Line
  | [['N', 'O', 'P']] => some (.base .nop)
  | [['R', 'S', 'T']] => some (.base .rst)
  | [['S', 'M', 'P'], ['0']] => some (.base (.smp false))
  | [['S', 'M', 'P'], ['1']] => some (.base (.smp true))
  | [['E', 'N', 'C'], ['0']] => some (.base (.enc false))
  | [['E', 'N', 'C'], ['1']] => some (.base (.enc true))
  | [['S', 'M', 'P', '.', 'P']] => some .smpP
  | [['S', 'M', 'P', '.', 'R']] => some .smpR
  | [['C', 'W']] => some .cw
  | [['C', 'C', 'W']] => some .ccw
  | [['P', 'R', 'E', 'S', 'S']] => some .press
  | [['I', 'D', 'L', 'E']] => some .idle
  | [['W', 'A', 'I', 'T']] => some .wait
  | [['C', 'L', 'I', 'C', 'K']] => some .click
  | ['R', 'E', 'P'] :: n :: form =>
    match countFrom 0 n, (parseTokens form).or (hexForm form) with
    | some k, some l => if n = [','] then none else some (.rep k l)
    | _, _ => none
  | _ => none

/-- One line of text as a line of the stream (R76). DESIGN CHOICE, safe (log 17): a line holds one form,
so the programs of 95_test_vectors.md that put several on a line after `;` are not of this syntax. -/
def parseLine (text : List Char) : Option Line := parseTokens (tokensFrom [] (stripComment text))

/-- A hexadecimal byte list as words, two digits a byte (R76). -/
def parseHex (text : List Char) : Option (List Word) :=
  (tokensFrom [] (stripComment text)).mapM hexByte

/-- The text of a base form (R76). -/
def baseText : Instr → List Char
  | .nop => ['N', 'O', 'P']
  | .smp r => ['S', 'M', 'P', ' ', if r then '1' else '0']
  | .enc b => ['E', 'N', 'C', ' ', if b then '1' else '0']
  | .rst => ['R', 'S', 'T']

end Sys2Proof.Machine
end

