-- ==== Sys2Proof/Machine/Observe.lean ====
section
/-! DEFINITION. The read-only observation port, the register encodings and widths: 10_state.md rules R22, R33, 20_memory.md rule R51, 00_scope.md rule R7. -/

namespace Sys2Proof.Machine

/-- PWR's encoding (R22). -/
def Power.code : Power → Nat
  | .off => 0
  | .on => 1

/-- PHASE's encoding (R22, R26). -/
def Phase.code : Phase → Nat
  | .test => 0
  | .holdPoll => 1
  | .holdWait => 2
  | .reserved => 3

/-- The index number of a register, none for the queue (R22). -/
def Reg.index : Reg → Option Nat
  | .pwr => some 0
  | .duty => some 1
  | .rem => some 2
  | .phase => some 3
  | .dbp => some 4
  | .dbr => some 5
  | .hwc => some 6
  | .qlen => some 7
  | .cc i => some (8 + i)
  | .q => none

/-- The width of a register, that of one entry for the queue (R7, R22). -/
def Reg.width (c : Config) : Reg → Nat
  | .pwr => 1
  | .duty => Config.bitsFor c.dutyMax
  | .rem => Config.bitsFor c.dutyMax
  | .phase => 2
  | .dbp => Config.bitsFor (c.dbTh - 1)
  | .dbr => Config.bitsFor (c.dbTh - 1)
  | .hwc => Config.bitsFor c.holdTicks
  | .qlen => Config.bitsFor c.qCap
  | .cc _ => c.ccWidth
  | .q => Config.bitsFor c.dutyMax

/-- The observation port: the register with an index, as one number (R33). DESIGN CHOICE, safe (log 23):
an index past the last channel, which names no register, is answered with none. -/
def State.observe (s : State) : Nat → Option Nat
  | 0 => some s.pwr.code
  | 1 => some s.duty
  | 2 => some s.rem
  | 3 => some s.phase.code
  | 4 => some s.dbp
  | 5 => some s.dbr
  | 6 => some s.hwc
  | 7 => some s.qlen
  | i + 8 => s.cc[i]?

/-- A trace line: every register in index order, one number each (R51), and the whole queue (R33). -/
def State.trace (s : State) : List Nat × List Nat :=
  ([s.pwr.code, s.duty, s.rem, s.phase.code, s.dbp, s.dbr, s.hwc, s.qlen] ++ s.cc, s.q)

/-- The block's output signals cc0, cc1, cc2 in channel order (R75, R174). -/
def State.outputs (s : State) : List Nat := s.cc

/-- The code of a refusal for traces (R201); none for the refusal that is not the spec's. -/
def Refusal.code : Refusal → Option Nat
  | .reservedWord _ => some 1
  | .phaseReserved _ => some 2
  | .stateOutOfInvariant _ => some 3
  | _ => none

end Sys2Proof.Machine
end

