-- ==== Sys2Proof/WellFormed.lean ====
section
/-! DEFINITION. Well-formedness of instructions and of the configuration record: 30_encoding.md rule R72, 00_scope.md rule R6. -/

namespace Sys2Proof

/-- An instruction's operands are within their fields. Every operand is one bit (R72), which its type
already says, so no term of `Instr` is ill-formed. -/
def Instr.wf : Instr → Bool
  | .nop => true
  | .smp _ => true
  | .enc _ => true
  | .rst => true

/-- The constraints of rule R6, in its order. HOLD_TICKS ≥ 0 holds of every natural number. -/
abbrev Config.WellFormed (c : Config) : Prop :=
  c.dutyMin = 0 ∧
  c.dutyMin < c.dutyMax ∧
  1 ≤ c.dutyStep ∧
  c.dutyMax % c.dutyStep = 0 ∧
  c.LegalDuty c.restoreDefault ∧
  c.LegalDuty c.remReset ∧
  1 ≤ c.dbTh ∧
  1 ≤ c.qCap ∧
  1 ≤ c.pwmRes

/-- The two ratios of durations that rule R5's table writes beside a parameter: HOLD_TICKS = HOLD_MS /
SAMPLE_MS and PWM_FREQ_HZ = PWM_CLK_HZ / (PWM_TOP + 1) (R172). Not among R6's constraints, and vector
V-CT-11 varies HOLD_TICKS alone, so no rule of the model asks for it (log 18). -/
abbrev Config.TimingConsistent (c : Config) : Prop :=
  c.holdTicks = c.holdMs / c.sampleMs ∧ c.pwmFreqHz = c.pwmClkHz / (c.pwmTop + 1)

end Sys2Proof
end

