-- ==== Sys2Proof/Safety.lean ====
section
/-! DEFINITION. The terms in which claims are made: legal states, runs over a stream, debounce calls. -/

namespace Sys2Proof.Machine

/-- A legal state of a machine whose configuration meets R6: the premise under which R34 speaks. -/
abbrev Legal (s : State) : Prop := s.cfg.WellFormed ∧ Inv s

/-- PHASE is a debounce call's phase, TEST or HOLD_POLL (R27, R105). -/
abbrev Polling (s : State) : Prop := s.phase = .test ∨ s.phase = .holdPoll

/-- The state in front of the stream of the words of `is`, and nothing after them. -/
def State.facing (s : State) (is : List Instr) : State := s.setStim (is.map encode)

/-- The outcome of the machine's run over the words of `is`, one step a word. -/
def runOver (is : List Instr) (s : State) : Host.Outcome State Fault Refusal :=
  Sys2Proof.core.run is.length (s.facing is)

/-- The state in which a debounce call stands after the samples `rs`, if none of them has completed it:
"the current call" of R102. -/
def debounceCall : List Bool → State → Option State
  | [], s => some s
  | r :: rs, s =>
    match debounce r s with
    | (s1, none) => debounceCall rs s1
    | (_, some _) => none

/-- `rs` ends with `n` samples all equal to `b`. -/
def EndsWithRun (n : Nat) (b : Bool) (rs : List Bool) : Prop :=
  ∃ before, rs = before ++ List.replicate n b

/-- Somewhere in `rs` stand `n` samples in a row all equal. -/
def HasRun (n : Nat) (rs : List Bool) : Prop :=
  ∃ b before after, rs = before ++ List.replicate n b ++ after

end Sys2Proof.Machine
end

