-- ==== Sys2Proof/Certificates/Slice0/Obligations.lean ====
section
/-! DEFINITION. The statements for the provers, by the rules of spec/. -/

open Sys2Proof Sys2Proof.Machine

/-! ### Encoding and the step -/

/-- 30_encoding.md R70, R71, R76: a stream's words decode to the instructions they were written from, and
to no others; no operand bit is dropped, for every instruction and every stream. -/
def Obligations.StreamEncodingLosesNothing : Prop :=
  ∀ (is : List Instr) (ws : List Word), ws.mapM decode = some is ↔ ws = is.map encode

/-- 30_encoding.md R73: the decoder refuses exactly the words other than the six legal ones, 250 of the
256 byte values. -/
def Obligations.ReservedWordsAreAllButSix : Prop :=
  (∀ w : Word, decode w = none ↔ w ∉ [0x00#8, 0x10#8, 0x11#8, 0x20#8, 0x21#8, 0xF0#8]) ∧
  ((List.range 256).filter fun n => decode (BitVec.ofNat 8 n) = none).length = 250

/-- 30_encoding.md R71, R72, R74: the words written out bit by bit from the table decode to what they
stand for. -/
def Obligations.TableWordsDecodeToTheirRows : Prop :=
  decode 0b00000000#8 = some .nop ∧
  decode 0b00010000#8 = some (.smp false) ∧ decode 0b00010001#8 = some (.smp true) ∧
  decode 0b00100000#8 = some (.enc false) ∧ decode 0b00100001#8 = some (.enc true) ∧
  decode 0b11110000#8 = some .rst

/-- 30_encoding.md R76 (the spec's decision D2; one form a line, log 17): the text of every base form, with
or without a comment, reads back as that form and assembles to its word. -/
def Obligations.BaseFormTextReadsBack : Prop :=
  ∀ (i : Instr) (comment : List Char),
    parseLine (baseText i) = some (.base i) ∧
    parseLine (baseText i ++ ' ' :: ';' :: comment) = some (.base i) ∧
    assemble Config.default [.base i] = [encode i]

/-- 00_scope.md R11: a step takes the next word of the stream and, when it decodes to a well-formed
instruction, is that instruction's effect in the state with the word taken. A word placed by
`withFetchWord` is the next word. -/
def Obligations.StepRunsTheDecodedWord : Prop :=
  (∀ (s : State) (w : Word) (ws : List Word) (i : Instr), s.stim = w :: ws → decode w = some i →
    i.wf = true → step s = exec i (s.setStim ws)) ∧
  (∀ (s : State) (n : Nat) (i : Instr), decodeTableWord 8 n = some i →
    step (s.withFetchWord 8 n) = exec i s)

/-- 60_exceptions.md R201, R202: a reserved word is refused with code 1, which records the word, before
the state is examined: whatever the state. -/
def Obligations.ReservedWordRefusedInEveryState : Prop :=
  ∀ (s : State) (w : Word) (ws : List Word), s.stim = w :: ws → decode w = none →
    step s = .refused (.reservedWord w) ∧ (Refusal.reservedWord w).code = some 1

/-- The model's own choice (log 2), no rule of the spec: with no word pending a step leaves the state. -/
def Obligations.IdleStepLeavesTheState : Prop :=
  ∀ s : State, s.stim = [] → step s = .next s

/-- 20_memory.md R57: the words are processed one a step in the order of the stream; nothing the block
does changes the words still to come. -/
def Obligations.StepConsumesOneWordInOrder : Prop :=
  ∀ s t : State, step s = .next t → t.stim = s.stim.tail

/-- 10_state.md R37: no step changes the configuration record, reset included. -/
def Obligations.ConfigurationNeverChanges : Prop :=
  ∀ s t : State, step s = .next t → t.cfg = s.cfg

/-! ### NOP, RST, reset, the state check -/

/-- 44_system.md R190 with 60_exceptions.md R201: NOP completes exactly in the states that meet R34, and
changes nothing. That NOP is checked too is read from "any word but RST" (log 9). -/
def Obligations.NopCompletesExactlyInLegalStates : Prop :=
  ∀ s t : State, exec .nop s = .next t ↔ Inv s ∧ t = s

/-- 44_system.md R191, 10_state.md R36: RST completes in every state, legal or not, with every register
and the queue at its reset value; configuration and the words still to come stay. The values other than
PWR, DUTY and CC are the spec's decisions D6, D7 and D16 (log 12). -/
def Obligations.ResetWordResetsEveryState : Prop :=
  ∀ s : State, exec .rst s = .next
    { cfg := s.cfg, pwr := .off, duty := 0, rem := s.cfg.remReset, phase := .test, dbp := 0, dbr := 0,
      hwc := 0, q := [], cc := List.replicate s.cfg.nCh 0, stim := s.stim }

/-- 10_state.md R36, 70_reset_and_hazards.md R230: the machine after power-on, at the default parameters
(log 4) and with no word presented (log 1, the model's choice). -/
def Obligations.PowerOnValuesAreThoseOfTheSpec : Prop :=
  State.reset.pwr = .off ∧ State.reset.duty = 0 ∧ State.reset.rem = 0 ∧ State.reset.phase = .test ∧
  State.reset.dbp = 0 ∧ State.reset.dbr = 0 ∧ State.reset.hwc = 0 ∧ State.reset.q = [] ∧
  State.reset.qlen = 0 ∧ State.reset.cc = [0, 0, 0] ∧ State.reset.stim = []

/-- 10_state.md R34 "From reset": the reset state meets the invariants under every configuration that
meets R6, and State.reset's configuration does. -/
def Obligations.ResetMeetsTheInvariants : Prop :=
  Legal State.reset ∧
  ∀ (c : Config) (ws : List Word), c.WellFormed → Inv (State.resetOf c ws)

/-- 60_exceptions.md R202: a state with PHASE = 3 is refused with code 2 by every word but RST, whatever
else it breaks. -/
def Obligations.ReservedPhaseRefusedWithCodeTwo : Prop :=
  ∀ (s : State) (i : Instr), s.phase = .reserved → i ≠ .rst →
    exec i s = .refused (.phaseReserved 3#2) ∧ (Refusal.phaseReserved 3#2).code = some 2

/-- 60_exceptions.md R201, R202: any other state that breaks R34 is refused with code 3 by every word but
RST, each recording the same register. -/
def Obligations.BrokenInvariantRefusedWithCodeThree : Prop :=
  ∀ s : State, s.phase ≠ .reserved → ¬ Inv s →
    ∃ r, (Refusal.stateOutOfInvariant r).code = some 3 ∧
      ∀ i : Instr, i ≠ .rst → exec i s = .refused (.stateOutOfInvariant r)

/-- 60_exceptions.md R201 "the first register, in index order": exactly when each register is the one
recorded. Which part of R34 counts for which register is the model's reading (log 8). -/
def Obligations.RecordedRegisterIsTheFirstBroken : Prop :=
  ∀ (s : State) (i : Instr), i ≠ .rst → s.phase ≠ .reserved →
    (exec i s = .refused (.stateOutOfInvariant .pwr) ↔ ¬ I2 s) ∧
    (exec i s = .refused (.stateOutOfInvariant .duty) ↔ I2 s ∧ ¬ s.cfg.LegalDuty s.duty) ∧
    (exec i s = .refused (.stateOutOfInvariant .rem) ↔
      I2 s ∧ s.cfg.LegalDuty s.duty ∧ ¬ s.cfg.LegalDuty s.rem) ∧
    (exec i s = .refused (.stateOutOfInvariant .phase) ↔
      I2 s ∧ s.cfg.LegalDuty s.duty ∧ s.cfg.LegalDuty s.rem ∧ ¬ I5 s) ∧
    (exec i s = .refused (.stateOutOfInvariant .dbp) ↔
      I2 s ∧ s.cfg.LegalDuty s.duty ∧ s.cfg.LegalDuty s.rem ∧ I5 s ∧
      ¬ ((s.dbp = 0 ∨ s.dbr = 0) ∧ s.dbp < s.cfg.dbTh)) ∧
    (exec i s = .refused (.stateOutOfInvariant .dbr) ↔
      I2 s ∧ s.cfg.LegalDuty s.duty ∧ s.cfg.LegalDuty s.rem ∧ I5 s ∧
      ((s.dbp = 0 ∨ s.dbr = 0) ∧ s.dbp < s.cfg.dbTh) ∧ ¬ s.dbr < s.cfg.dbTh) ∧
    (exec i s = .refused (.stateOutOfInvariant .qlen) ↔
      I2 s ∧ s.cfg.LegalDuty s.duty ∧ s.cfg.LegalDuty s.rem ∧ I4 s ∧ I5 s ∧ ¬ I6 s) ∧
    (exec i s = .refused (.stateOutOfInvariant (.cc 0)) ↔
      I2 s ∧ s.cfg.LegalDuty s.duty ∧ s.cfg.LegalDuty s.rem ∧ I4 s ∧ I5 s ∧ I6 s ∧ ¬ I3 s) ∧
    (exec i s = .refused (.stateOutOfInvariant .q) ↔
      I2 s ∧ s.cfg.LegalDuty s.duty ∧ s.cfg.LegalDuty s.rem ∧ I4 s ∧ I5 s ∧ I6 s ∧ I3 s ∧
      ¬ ∀ x ∈ s.q, s.cfg.LegalDuty x) ∧
    ∀ r, exec i s = .refused (.stateOutOfInvariant r) →
      r ∈ [Reg.pwr, .duty, .rem, .phase, .dbp, .dbr, .qlen, .cc 0, .q]

/-- 60_exceptions.md R214 "Every legal word has exactly one step", R200: in a state that meets R34 every
instruction completes. -/
def Obligations.EveryWordCompletesInLegalStates : Prop :=
  ∀ (s : State) (i : Instr), Inv s → ∃ t, exec i s = .next t

/-! ### The encoder -/

/-- 41_encoder.md R122 with 20_memory.md R53: a clockwise edge below DUTY_MAX steps DUTY and queues the
new value when there is room; at the bound it changes nothing. Everything else stays. -/
def Obligations.ClockwiseEdgeStepsUpAndPublishes : Prop :=
  ∀ s : State, Inv s →
    (s.duty < s.cfg.dutyMax → exec (.enc false) s = .next
      { s with
        duty := min (s.duty + s.cfg.dutyStep) s.cfg.dutyMax
        q := if s.q.length < s.cfg.qCap then s.q ++ [min (s.duty + s.cfg.dutyStep) s.cfg.dutyMax]
             else s.q }) ∧
    (¬ s.duty < s.cfg.dutyMax → exec (.enc false) s = .next s)

/-- 41_encoder.md R123 with 20_memory.md R53: a counter-clockwise edge above DUTY_MIN steps DUTY down and
queues the new value when there is room; at the bound it changes nothing. Everything else stays. -/
def Obligations.CounterClockwiseEdgeStepsDownAndPublishes : Prop :=
  ∀ s : State, Inv s →
    (s.cfg.dutyMin < s.duty → exec (.enc true) s = .next
      { s with
        duty := max (s.duty - s.cfg.dutyStep) s.cfg.dutyMin
        q := if s.q.length < s.cfg.qCap then s.q ++ [max (s.duty - s.cfg.dutyStep) s.cfg.dutyMin]
             else s.q }) ∧
    (¬ s.cfg.dutyMin < s.duty → exec (.enc true) s = .next s)

/-- 41_encoder.md R125: under R6 the clamps never take effect; a step is exactly DUTY_STEP and stays in
range. -/
def Obligations.ClampsNeverTakeEffectInLegalStates : Prop :=
  ∀ s t : State, Legal s →
    (s.duty < s.cfg.dutyMax → exec (.enc false) s = .next t →
      t.duty = s.duty + s.cfg.dutyStep ∧ t.duty ≤ s.cfg.dutyMax) ∧
    (s.cfg.dutyMin < s.duty → exec (.enc true) s = .next t →
      t.duty + s.cfg.dutyStep = s.duty ∧ s.cfg.dutyMin ≤ t.duty)

/-- 41_encoder.md R121 (frame): ENC writes DUTY and Q alone. -/
def Obligations.EncoderWritesOnlyDutyAndQueue : Prop :=
  ∀ (b : Bool) (s t : State), exec (.enc b) s = .next t →
    t.pwr = s.pwr ∧ t.rem = s.rem ∧ t.phase = s.phase ∧ t.dbp = s.dbp ∧ t.dbr = s.dbr ∧ t.hwc = s.hwc ∧
    t.cc = s.cc ∧ t.cfg = s.cfg ∧ t.stim = s.stim

/-- 41_encoder.md R121: ENC reads DUTY and Q alone: two states that agree on them, whatever their power
state, phase, counters, remembered value and outputs, get the same DUTY and Q. -/
def Obligations.EncoderReadsOnlyDutyAndQueue : Prop :=
  ∀ (b : Bool) (s s' t t' : State), s.cfg = s'.cfg → s.duty = s'.duty → s.q = s'.q →
    exec (.enc b) s = .next t → exec (.enc b) s' = .next t' → t.duty = t'.duty ∧ t.q = t'.q

/-- 41_encoder.md R124: with a full queue an edge away from the bound still makes the update of DUTY that
R122 or R123 gives; only the push is lost, and everything else, Q included, stays. -/
def Obligations.FullQueueLosesOnlyThePush : Prop :=
  ∀ (b : Bool) (s : State), Legal s → s.q.length = s.cfg.qCap →
    (b = false → s.duty < s.cfg.dutyMax) → (b = true → s.cfg.dutyMin < s.duty) →
    exec (.enc b) s = .next
      { s with
        duty := if b then max (s.duty - s.cfg.dutyStep) s.cfg.dutyMin
                else min (s.duty + s.cfg.dutyStep) s.cfg.dutyMax }

/-! ### Samples and verdicts -/

/-- 40_debounce.md R101: a sample in TEST or HOLD_POLL that completes no run counts in its own counter,
clears the other, and changes nothing else. -/
def Obligations.SampleWithoutVerdictOnlyCounts : Prop :=
  ∀ s : State, Inv s → Polling s →
    (s.dbp + 1 ≠ s.cfg.dbTh → exec (.smp true) s = .next { s with dbp := s.dbp + 1, dbr := 0 }) ∧
    (s.dbr + 1 ≠ s.cfg.dbTh → exec (.smp false) s = .next { s with dbp := 0, dbr := s.dbr + 1 })

/-- 42_controller.md R146: a PRESSED verdict in TEST while OFF restores the remembered brightness, or
RESTORE_DEFAULT for a remembered 0, applies it to every channel and turns ON; REM and Q stay. PHASE goes
to HOLD_POLL (R142, the spec's decision D9) and the counters to 0 (R101, decision D7); log 12. -/
def Obligations.PressWhileOffRestoresBrightness : Prop :=
  ∀ s : State, Inv s → s.phase = .test → s.pwr = .off → s.dbp + 1 = s.cfg.dbTh →
    exec (.smp true) s = .next
      { s with
        pwr := .on
        duty := if s.rem = 0 then s.cfg.restoreDefault else s.rem
        cc := List.replicate s.cfg.nCh
          (level s.cfg (if s.rem = 0 then s.cfg.restoreDefault else s.rem))
        phase := .holdPoll
        dbp := 0
        dbr := 0 }

/-- 42_controller.md R147: a PRESSED verdict in TEST while ON stores DUTY in REM, zero included, sets DUTY
and every compare level to 0 and turns OFF; Q stays. PHASE goes to HOLD_POLL (R142, the spec's decision
D9) and the counters to 0 (R101, decision D7); log 12. -/
def Obligations.PressWhileOnRemembersAndTurnsOff : Prop :=
  ∀ s : State, Inv s → s.phase = .test → s.pwr = .on → s.dbp + 1 = s.cfg.dbTh →
    exec (.smp true) s = .next
      { s with
        pwr := .off
        duty := 0
        rem := s.duty
        cc := List.replicate s.cfg.nCh 0
        phase := .holdPoll
        dbp := 0
        dbr := 0 }

/-- 42_controller.md R150 (the spec's decision D5), with R143: a PRESSED verdict in HOLD_POLL never
toggles; it starts a hold wait of HOLD_TICKS ticks, or none when HOLD_TICKS is 0. -/
def Obligations.PressWhileHeldStartsTheHoldWait : Prop :=
  ∀ s : State, Inv s → s.phase = .holdPoll → s.dbp + 1 = s.cfg.dbTh →
    (s.cfg.holdTicks = 0 → exec (.smp true) s = .next { s with dbp := 0, dbr := 0 }) ∧
    (s.cfg.holdTicks ≠ 0 → exec (.smp true) s = .next
      { s with phase := .holdWait, hwc := s.cfg.holdTicks, dbp := 0, dbr := 0 })

/-- 42_controller.md R144, R148, R149 (the spec's decisions D10, D11): a RELEASED verdict, in TEST or in
HOLD_POLL, ends the iteration: while ON with an entry queued, exactly the oldest one goes to DUTY and to
every channel; while OFF, or with an empty queue, nothing is drained (log 11). The counters go to 0 (R101,
decision D7; log 12). -/
def Obligations.ReleaseDrainsOneEntryAndEndsTheIteration : Prop :=
  ∀ s : State, Inv s → Polling s → s.dbr + 1 = s.cfg.dbTh →
    (∀ x rest, s.pwr = .on → s.q = x :: rest → exec (.smp false) s = .next
      { s with
        duty := x
        q := rest
        cc := List.replicate s.cfg.nCh (level s.cfg x)
        phase := .test
        dbp := 0
        dbr := 0 }) ∧
    (s.pwr = .off ∨ s.q = [] → exec (.smp false) s = .next
      { s with phase := .test, dbp := 0, dbr := 0 })

/-- 42_controller.md R151 (the spec's decision D5): a sample tick in HOLD_WAIT takes one tick from HWC and
returns to HOLD_POLL at 0; the sample's value is not used and nothing else changes. -/
def Obligations.HoldTickCountsAndIgnoresTheSample : Prop :=
  ∀ (r : Bool) (s : State), Inv s → s.phase = .holdWait →
    exec (.smp r) s = .next
      { s with hwc := s.hwc - 1, phase := if s.hwc - 1 = 0 then .holdPoll else .holdWait }

/-- 10_state.md R32 (frame of SMP, the rows of the write matrix): what a sample tick leaves unchanged, by
phase and verdict. -/
def Obligations.SampleWritesOnlyItsRowOfTheMatrix : Prop :=
  ∀ (r : Bool) (s t : State), exec (.smp r) s = .next t →
    t.cfg = s.cfg ∧ t.stim = s.stim ∧
    (s.phase = .holdWait → t.pwr = s.pwr ∧ t.duty = s.duty ∧ t.rem = s.rem ∧ t.dbp = s.dbp ∧
      t.dbr = s.dbr ∧ t.q = s.q ∧ t.cc = s.cc) ∧
    (s.phase = .holdPoll → t.pwr = s.pwr ∧ t.rem = s.rem ∧
      (¬ (r = false ∧ s.dbr + 1 = s.cfg.dbTh ∧ s.pwr = .on ∧ s.q ≠ []) →
        t.duty = s.duty ∧ t.q = s.q ∧ t.cc = s.cc)) ∧
    (s.phase = .test → t.hwc = s.hwc ∧
      (r = true ∧ s.dbp + 1 = s.cfg.dbTh → t.q = s.q ∧ (s.pwr = .off → t.rem = s.rem)) ∧
      (¬ (r = true ∧ s.dbp + 1 = s.cfg.dbTh) → t.pwr = s.pwr ∧ t.rem = s.rem ∧ t.phase = s.phase) ∧
      (¬ (r = true ∧ s.dbp + 1 = s.cfg.dbTh) →
        ¬ (r = false ∧ s.dbr + 1 = s.cfg.dbTh ∧ s.pwr = .on ∧ s.q ≠ []) →
        t.duty = s.duty ∧ t.q = s.q ∧ t.cc = s.cc))

/-! ### Who writes what, over all instructions -/

/-- 10_state.md R23, 42_controller.md R152: PWR changes only by RST or by a PRESSED verdict in TEST, after
which PHASE is HOLD_POLL. -/
def Obligations.PowerChangesOnlyByResetOrPressInTest : Prop :=
  ∀ (i : Instr) (s t : State), exec i s = .next t → t.pwr ≠ s.pwr →
    i = .rst ∨ (i = .smp true ∧ s.phase = .test ∧ s.dbp + 1 = s.cfg.dbTh ∧ t.phase = .holdPoll)

/-- 10_state.md R25: REM changes only by RST or by the ON→OFF toggle, which stores the DUTY present at
that moment. -/
def Obligations.RememberedBrightnessChangesOnlyWhenTurningOff : Prop :=
  ∀ (i : Instr) (s t : State), exec i s = .next t → t.rem ≠ s.rem →
    i = .rst ∨ (i = .smp true ∧ s.phase = .test ∧ s.pwr = .on ∧ t.pwr = .off ∧ t.rem = s.duty)

/-- 10_state.md R30, 43_pwm.md R171: the compare levels change only by RST or by an SMP that completes a
verdict, and then all of them to the level of one duty value. -/
def Obligations.OutputsChangeOnlyTogetherAndOnlyByVerdictOrReset : Prop :=
  ∀ (i : Instr) (s t : State), exec i s = .next t → t.cc ≠ s.cc →
    (i = .rst ∨ (i = .smp true ∧ s.phase = .test ∧ s.dbp + 1 = s.cfg.dbTh) ∨
      (i = .smp false ∧ Polling s ∧ s.dbr + 1 = s.cfg.dbTh ∧ s.pwr = .on)) ∧
    ∃ p, t.cc = List.replicate s.cfg.nCh (level s.cfg p)

/-- 10_state.md R29, 20_memory.md R52 to R55: one word leaves the queue, appends the new DUTY at its tail
(ENC, with room), takes its head into DUTY (a RELEASED verdict while ON) or empties it (RST). -/
def Obligations.QueueIsFirstInFirstOut : Prop :=
  ∀ (i : Instr) (s t : State), exec i s = .next t →
    t.q = s.q ∨
    (∃ b, i = .enc b ∧ s.q.length < s.cfg.qCap ∧ t.q = s.q ++ [t.duty]) ∨
    (i = .smp false ∧ s.pwr = .on ∧ Polling s ∧ s.q = t.duty :: t.q) ∨
    (i = .rst ∧ t.q = [])

/-- 42_controller.md R152, R143: TEST is entered from the hold loop only by a RELEASED verdict of a poll,
or by RST. -/
def Obligations.HoldLoopEndsOnlyByReleaseOrReset : Prop :=
  ∀ (i : Instr) (s t : State), exec i s = .next t → s.phase ≠ .test → t.phase = .test →
    i = .rst ∨ (i = .smp false ∧ s.phase = .holdPoll ∧ s.dbr + 1 = s.cfg.dbTh)

/-- 10_state.md R34 I7: right after an OFF→ON toggle and right after a drain, PWR is ON and every compare
level is that of DUTY. -/
def Obligations.OutputsShowDutyAfterTurningOnAndAfterADrain : Prop :=
  ∀ (i : Instr) (s t : State), exec i s = .next t →
    ((s.pwr = .off ∧ t.pwr = .on) ∨ (i ≠ .rst ∧ t.q.length < s.q.length)) →
    t.pwr = .on ∧ t.cc = List.replicate s.cfg.nCh (level s.cfg t.duty)

/-! ### PWM, widths, observation, wires -/

/-- 43_pwm.md R170 (the spec's decision D15): the compare level is the floor of PWM_RES · p / 100, at most
PWM_RES for p up to 100, and exactly 10 · p for PWM_RES = 1000. -/
def Obligations.LevelIsTheFloorOfTheProduct : Prop :=
  ∀ (c : Config) (p : Nat),
    (100 * level c p ≤ c.pwmRes * p ∧ c.pwmRes * p < 100 * (level c p + 1)) ∧
    (p ≤ 100 → level c p ≤ c.pwmRes) ∧
    (c.pwmRes = 1000 → level c p = 10 * p) ∧
    level c 0 = 0 ∧ level c 100 = c.pwmRes

/-- 43_pwm.md R171: Apply writes the level of p to all N_CH channels and nothing else; applying the value
already applied changes nothing. -/
def Obligations.ApplyWritesEveryChannelAlike : Prop :=
  ∀ (p : Nat) (s : State),
    applyDuty p s = { s with cc := List.replicate s.cfg.nCh (level s.cfg p) } ∧
    applyDuty p (applyDuty p s) = applyDuty p s

/-- 43_pwm.md R173, informative and from general knowledge (log 14), no rule of the block: at the default
parameters the counts an output is high are p / 100 of the period. -/
def Obligations.HighFractionIsTheDutyPercentage : Prop :=
  ∀ p : Nat, p ≤ 100 →
    100 * highCounts Config.default (level Config.default p) = p * (Config.default.pwmTop + 1)

/-- 00_scope.md R7 (the spec's decision D33; CC's 11 bits log 6): in a legal state whose DUTY_MAX is a
percentage every register fits its width, and the default widths are those of R22's table. -/
def Obligations.RegistersFitTheirWidthsInLegalStates : Prop :=
  (∀ s : State, Legal s → s.cfg.dutyMax ≤ 100 →
    s.pwr.code < 2 ^ Reg.width s.cfg .pwr ∧ s.duty < 2 ^ Reg.width s.cfg .duty ∧
    s.rem < 2 ^ Reg.width s.cfg .rem ∧ s.phase.code < 2 ^ Reg.width s.cfg .phase ∧
    s.dbp < 2 ^ Reg.width s.cfg .dbp ∧ s.dbr < 2 ^ Reg.width s.cfg .dbr ∧
    s.hwc < 2 ^ Reg.width s.cfg .hwc ∧ s.qlen < 2 ^ Reg.width s.cfg .qlen ∧
    (∀ l ∈ s.cc, l < 2 ^ Reg.width s.cfg (.cc 0)) ∧ (∀ x ∈ s.q, x < 2 ^ Reg.width s.cfg .q)) ∧
  [Reg.pwr, .duty, .rem, .phase, .dbp, .dbr, .hwc, .qlen, .cc 0, .q].map (Reg.width Config.default) =
    [1, 7, 7, 2, 2, 2, 3, 7, 11, 7]

/-- 10_state.md R22, R33, 20_memory.md R51: the observation port answers each register by its index, as
one number: PWR and PHASE by their codes, QLEN as the length of Q, CC[i] at 8 + i; the trace line is the
same readings in index order, with the whole queue. That an index past the last channel is answered with
nothing is the model's choice (log 23). -/
def Obligations.ObservationPortReadsRegistersByIndex : Prop :=
  ∀ s : State,
    (s.pwr = .off → s.observe 0 = some 0) ∧ (s.pwr = .on → s.observe 0 = some 1) ∧
    s.observe 1 = some s.duty ∧ s.observe 2 = some s.rem ∧
    (s.phase = .test → s.observe 3 = some 0) ∧ (s.phase = .holdPoll → s.observe 3 = some 1) ∧
    (s.phase = .holdWait → s.observe 3 = some 2) ∧ (s.phase = .reserved → s.observe 3 = some 3) ∧
    s.observe 4 = some s.dbp ∧ s.observe 5 = some s.dbr ∧ s.observe 6 = some s.hwc ∧
    s.observe 7 = some s.q.length ∧
    (∀ i l, s.cc[i]? = some l → s.observe (8 + i) = some l) ∧
    (∀ i, s.cc.length ≤ i → s.observe (8 + i) = none) ∧
    (I3 s → s.trace.1.length = 8 + s.cfg.nCh) ∧
    (∀ i, s.trace.1[i]? = s.observe i) ∧ s.trace.2 = s.q

/-- 30_encoding.md R75, 60_exceptions.md R204 (the spec's decision D4): over any clocks, whatever events
fire in each and in whatever order the words of a clock are presented, a legal state runs through all of
them. The reference realisation's stream is one of those, and its order is RST, then ENC, then SMP. -/
def Obligations.SimultaneousEventsRunInEveryOrder : Prop :=
  (∀ (porBefore : Bool) (xs : List Wires) (ws : List Word) (s : State),
    Wires.AdmitsOver porBefore xs ws → Legal s →
    ∃ t : State, Sys2Proof.core.run ws.length (s.setStim ws) = .next t ∧ Legal t) ∧
  (∀ (porBefore : Bool) (xs : List Wires),
    Wires.AdmitsOver porBefore xs (Wires.wordsOver porBefore xs)) ∧
  ∀ b r : Bool, ((Wires.mk true (some r) (some b)).words false).mapM decode = some [.rst, .enc b, .smp r]

/-! ### Invariants and runs -/

/-- 10_state.md R34: every step from a legal state that goes on ends in a legal state. -/
def Obligations.StepKeepsTheInvariants : Prop :=
  ∀ s t : State, Legal s → step s = .next t → Legal t

/-- 10_state.md R34 with 60_exceptions.md R201: after any word that is not refused, from whatever state,
the invariants hold; no run reaches a word's effect outside them. -/
def Obligations.AcceptedWordLeavesALegalState : Prop :=
  ∀ (i : Instr) (s t : State), s.cfg.WellFormed → exec i s = .next t → Legal t

/-- 60_exceptions.md R200, R214: no stream of legal words, however long, is ever refused from a legal
state; it is consumed whole and ends in a legal state. -/
def Obligations.LegalStreamsRunWithoutRefusal : Prop :=
  ∀ (is : List Instr) (s : State), Legal s →
    ∃ t, runOver is s = .next t ∧ Legal t ∧ t.stim = []

/-- 60_exceptions.md R201, 44_system.md R191, 30_encoding.md R73: legal words run up to the first reserved
word; it is refused with code 1, recording it, and the run keeps that refusal whatever words follow and
however long it goes on, RST among them. That a run ends at the refusal renders "keeps that verdict for the
rest of the run" (log 10). -/
def Obligations.RefusalIsKeptForTheRestOfTheRun : Prop :=
  ∀ (is : List Instr) (w : Word) (ws : List Word) (s : State) (k : Nat),
    Legal s → decode w = none →
    (∃ t : State, Sys2Proof.core.run is.length (s.setStim (is.map encode ++ w :: ws)) = .next t ∧
      t.stim = w :: ws) ∧
    (is.length < k →
      Sys2Proof.core.run k (s.setStim (is.map encode ++ w :: ws)) = .refused (Refusal.reservedWord w))

/-- 40_debounce.md R102 (the spec's decision D30): in a debounce call that began with cleared counters and
has not finished, the next sample gives PRESSED exactly when the call's last DB_TH samples, it included,
were all pressed, and RELEASED exactly when they were all released. -/
def Obligations.VerdictIsTheLastConsistentRun : Prop :=
  ∀ (rs : List Bool) (r : Bool) (s u : State), 1 ≤ s.cfg.dbTh → s.dbp = 0 → s.dbr = 0 →
    debounceCall rs s = some u →
    ((debounce r u).2 = some .pressed ↔ EndsWithRun s.cfg.dbTh true (rs ++ [r])) ∧
    ((debounce r u).2 = some .released ↔ EndsWithRun s.cfg.dbTh false (rs ++ [r]))

/-- 40_debounce.md R102: a debounce call goes on without a verdict, however long, exactly as long as its
samples hold no run of DB_TH consistent ones. -/
def Obligations.CallGoesOnExactlyWithoutAConsistentRun : Prop :=
  ∀ (rs : List Bool) (s : State), 1 ≤ s.cfg.dbTh → s.dbp = 0 → s.dbr = 0 →
    ((debounceCall rs s).isSome = true ↔ ¬ HasRun s.cfg.dbTh rs)

/-- 42_controller.md R152: in the hold loop no stream of pressed samples, encoder edges and NOPs, however
long, toggles the power state or leaves the hold loop. -/
def Obligations.HeldButtonNeverTogglesAgain : Prop :=
  ∀ (is : List Instr) (s : State), Legal s → s.phase ≠ .test →
    (∀ i ∈ is, i ≠ .rst ∧ i ≠ .smp false) →
    ∃ t, runOver is s = .next t ∧ t.pwr = s.pwr ∧ t.phase ≠ .test

/-- 42_controller.md R152, 30_encoding.md R77: a press held for any number of samples from DB_TH on, begun
in TEST with no pressed sample counted, toggles: PWR is the other one at its end. With the statement on
the hold loop, it toggles exactly once. -/
def Obligations.PressOfAnyLengthToggles : Prop :=
  ∀ (n : Nat) (s : State), Legal s → s.phase = .test → s.dbp = 0 → s.cfg.dbTh ≤ n →
    ∃ t, runOver (List.replicate n (.smp true)) s = .next t ∧ t.pwr ≠ s.pwr ∧ t.phase ≠ .test

/-- 30_encoding.md R77: CLICK from TEST with cleared counters is one toggle, then release and one drain
attempt, and ends in TEST: OFF with nothing drained, or ON with the oldest entry, when there is one, in
DUTY and on the outputs. -/
def Obligations.ClickTogglesOnceAndTriesOneDrain : Prop :=
  ∀ s : State, Legal s → s.phase = .test → s.dbp = 0 → s.dbr = 0 →
    (s.pwr = .on → runOver (Line.click.expand s.cfg) s = .next
      { s with
        pwr := .off, duty := 0, rem := s.duty, cc := List.replicate s.cfg.nCh 0, stim := [] }) ∧
    (∀ x rest, s.pwr = .off → s.q = x :: rest → runOver (Line.click.expand s.cfg) s = .next
      { s with
        pwr := .on, duty := x, q := rest, cc := List.replicate s.cfg.nCh (level s.cfg x), stim := [] }) ∧
    (s.pwr = .off → s.q = [] → runOver (Line.click.expand s.cfg) s = .next
      { s with
        pwr := .on
        duty := if s.rem = 0 then s.cfg.restoreDefault else s.rem
        cc := List.replicate s.cfg.nCh
          (level s.cfg (if s.rem = 0 then s.cfg.restoreDefault else s.rem))
        stim := [] })

/-- 42_controller.md R153: the OFF→ON toggle that follows an ON→OFF toggle restores the DUTY before it,
or RESTORE_DEFAULT for a 0, whatever legal words but RST come while OFF between the two. -/
def Obligations.OffOnRoundTripRestoresDuty : Prop :=
  ∀ (is : List Instr) (i j : Instr) (s t u v : State),
    exec i s = .next t → i ≠ .rst → s.pwr = .on → t.pwr = .off →
    (∀ k ∈ is, k ≠ .rst) →
    (∀ n w, n ≤ is.length → runOver (is.take n) t = .next w → w.pwr = .off) →
    runOver is t = .next u → exec j u = .next v → v.pwr = .on →
    v.duty = (if s.duty = 0 then s.cfg.restoreDefault else s.duty) ∧
    v.cc = List.replicate s.cfg.nCh (level s.cfg v.duty)

/-- 42_controller.md R154, R149: while OFF and the button not pressed, no stream of encoder edges,
released samples and NOPs, however long, changes an output or takes an entry from the queue. -/
def Obligations.KnobWhileOffIsInvisible : Prop :=
  ∀ (is : List Instr) (s : State), Legal s → s.pwr = .off →
    (∀ i ∈ is, i ≠ .rst ∧ i ≠ .smp true) →
    ∃ t, runOver is s = .next t ∧ t.pwr = .off ∧ t.cc = s.cc ∧ (∀ l ∈ t.cc, l = 0) ∧ s.q <+: t.q

/-- 42_controller.md R150, R151, 70_reset_and_hazards.md R246: a hold wait with HWC ticks left ignores the
next HWC samples, whatever they are, and then polls; fewer samples leave it waiting. -/
def Obligations.HoldWaitIgnoresExactlyItsTicks : Prop :=
  ∀ (rs : List Bool) (s : State), Inv s → s.phase = .holdWait →
    (rs.length < s.hwc → runOver (rs.map .smp) s = .next { s with hwc := s.hwc - rs.length, stim := [] }) ∧
    (rs.length = s.hwc → runOver (rs.map .smp) s = .next
      { s with hwc := 0, phase := .holdPoll, stim := [] })

/-- 42_controller.md R148, 70_reset_and_hazards.md R240, R243: while ON and the button released, the
queue reaches the outputs one entry per iteration of DB_TH samples, oldest first. -/
def Obligations.QueueReachesTheOutputsOneEntryPerIteration : Prop :=
  ∀ (k : Nat) (s : State), Legal s → s.pwr = .on → s.phase = .test → s.dbr = 0 → k ≤ s.q.length →
    ∃ t, runOver (List.replicate (k * s.cfg.dbTh) (.smp false)) s = .next t ∧
      t.q = s.q.drop k ∧ t.pwr = .on ∧ t.phase = .test ∧ t.rem = s.rem ∧
      ∀ x, 0 < k → s.q[k - 1]? = some x →
        t.duty = x ∧ t.cc = List.replicate s.cfg.nCh (level s.cfg x)

/-! ### Events and words -/

/-- 30_encoding.md R75: over any clocks each event presents exactly one word: RST once for each assertion of
`por`, however many clocks it is held (log 21), and the SMP or ENC word of its operand for each sample tick
and each detected edge. That there is no NOP among them is the model's choice (log 24). -/
def Obligations.EveryEventPresentsExactlyOneWord : Prop :=
  ∀ (porBefore : Bool) (xs : List Wires) (ws : List Word), Wires.AdmitsOver porBefore xs ws →
    ws.count 0xF0#8 =
      ((porBefore :: xs.map Wires.por).zip (xs.map Wires.por)).count (false, true) ∧
    ws.count 0x10#8 = (xs.map Wires.smpTick).count (some false) ∧
    ws.count 0x11#8 = (xs.map Wires.smpTick).count (some true) ∧
    ws.count 0x20#8 = (xs.map Wires.encARise).count (some false) ∧
    ws.count 0x21#8 = (xs.map Wires.encARise).count (some true) ∧
    ∀ w ∈ ws, w ∈ [0x10#8, 0x11#8, 0x20#8, 0x21#8, 0xF0#8]
end

