-- ==== Sys2Proof/Laws/State.lean ====
section
/-! SUPPORT. What each named write does to each field, one lemma per field per write. -/

namespace Sys2Proof.Machine

@[simp] theorem State.setPwr_cfg (s : State) (v : Power) : (s.setPwr v).cfg = s.cfg := rfl
@[simp] theorem State.setPwr_pwr (s : State) (v : Power) : (s.setPwr v).pwr = v := rfl
@[simp] theorem State.setPwr_duty (s : State) (v : Power) : (s.setPwr v).duty = s.duty := rfl
@[simp] theorem State.setPwr_rem (s : State) (v : Power) : (s.setPwr v).rem = s.rem := rfl
@[simp] theorem State.setPwr_phase (s : State) (v : Power) : (s.setPwr v).phase = s.phase := rfl
@[simp] theorem State.setPwr_dbp (s : State) (v : Power) : (s.setPwr v).dbp = s.dbp := rfl
@[simp] theorem State.setPwr_dbr (s : State) (v : Power) : (s.setPwr v).dbr = s.dbr := rfl
@[simp] theorem State.setPwr_hwc (s : State) (v : Power) : (s.setPwr v).hwc = s.hwc := rfl
@[simp] theorem State.setPwr_q (s : State) (v : Power) : (s.setPwr v).q = s.q := rfl
@[simp] theorem State.setPwr_cc (s : State) (v : Power) : (s.setPwr v).cc = s.cc := rfl
@[simp] theorem State.setPwr_stim (s : State) (v : Power) : (s.setPwr v).stim = s.stim := rfl

@[simp] theorem State.setDuty_cfg (s : State) (v : Nat) : (s.setDuty v).cfg = s.cfg := rfl
@[simp] theorem State.setDuty_pwr (s : State) (v : Nat) : (s.setDuty v).pwr = s.pwr := rfl
@[simp] theorem State.setDuty_duty (s : State) (v : Nat) : (s.setDuty v).duty = v := rfl
@[simp] theorem State.setDuty_rem (s : State) (v : Nat) : (s.setDuty v).rem = s.rem := rfl
@[simp] theorem State.setDuty_phase (s : State) (v : Nat) : (s.setDuty v).phase = s.phase := rfl
@[simp] theorem State.setDuty_dbp (s : State) (v : Nat) : (s.setDuty v).dbp = s.dbp := rfl
@[simp] theorem State.setDuty_dbr (s : State) (v : Nat) : (s.setDuty v).dbr = s.dbr := rfl
@[simp] theorem State.setDuty_hwc (s : State) (v : Nat) : (s.setDuty v).hwc = s.hwc := rfl
@[simp] theorem State.setDuty_q (s : State) (v : Nat) : (s.setDuty v).q = s.q := rfl
@[simp] theorem State.setDuty_cc (s : State) (v : Nat) : (s.setDuty v).cc = s.cc := rfl
@[simp] theorem State.setDuty_stim (s : State) (v : Nat) : (s.setDuty v).stim = s.stim := rfl

@[simp] theorem State.setRem_cfg (s : State) (v : Nat) : (s.setRem v).cfg = s.cfg := rfl
@[simp] theorem State.setRem_pwr (s : State) (v : Nat) : (s.setRem v).pwr = s.pwr := rfl
@[simp] theorem State.setRem_duty (s : State) (v : Nat) : (s.setRem v).duty = s.duty := rfl
@[simp] theorem State.setRem_rem (s : State) (v : Nat) : (s.setRem v).rem = v := rfl
@[simp] theorem State.setRem_phase (s : State) (v : Nat) : (s.setRem v).phase = s.phase := rfl
@[simp] theorem State.setRem_dbp (s : State) (v : Nat) : (s.setRem v).dbp = s.dbp := rfl
@[simp] theorem State.setRem_dbr (s : State) (v : Nat) : (s.setRem v).dbr = s.dbr := rfl
@[simp] theorem State.setRem_hwc (s : State) (v : Nat) : (s.setRem v).hwc = s.hwc := rfl
@[simp] theorem State.setRem_q (s : State) (v : Nat) : (s.setRem v).q = s.q := rfl
@[simp] theorem State.setRem_cc (s : State) (v : Nat) : (s.setRem v).cc = s.cc := rfl
@[simp] theorem State.setRem_stim (s : State) (v : Nat) : (s.setRem v).stim = s.stim := rfl

@[simp] theorem State.setPhase_cfg (s : State) (v : Phase) : (s.setPhase v).cfg = s.cfg := rfl
@[simp] theorem State.setPhase_pwr (s : State) (v : Phase) : (s.setPhase v).pwr = s.pwr := rfl
@[simp] theorem State.setPhase_duty (s : State) (v : Phase) : (s.setPhase v).duty = s.duty := rfl
@[simp] theorem State.setPhase_rem (s : State) (v : Phase) : (s.setPhase v).rem = s.rem := rfl
@[simp] theorem State.setPhase_phase (s : State) (v : Phase) : (s.setPhase v).phase = v := rfl
@[simp] theorem State.setPhase_dbp (s : State) (v : Phase) : (s.setPhase v).dbp = s.dbp := rfl
@[simp] theorem State.setPhase_dbr (s : State) (v : Phase) : (s.setPhase v).dbr = s.dbr := rfl
@[simp] theorem State.setPhase_hwc (s : State) (v : Phase) : (s.setPhase v).hwc = s.hwc := rfl
@[simp] theorem State.setPhase_q (s : State) (v : Phase) : (s.setPhase v).q = s.q := rfl
@[simp] theorem State.setPhase_cc (s : State) (v : Phase) : (s.setPhase v).cc = s.cc := rfl
@[simp] theorem State.setPhase_stim (s : State) (v : Phase) : (s.setPhase v).stim = s.stim := rfl

@[simp] theorem State.setDbp_cfg (s : State) (v : Nat) : (s.setDbp v).cfg = s.cfg := rfl
@[simp] theorem State.setDbp_pwr (s : State) (v : Nat) : (s.setDbp v).pwr = s.pwr := rfl
@[simp] theorem State.setDbp_duty (s : State) (v : Nat) : (s.setDbp v).duty = s.duty := rfl
@[simp] theorem State.setDbp_rem (s : State) (v : Nat) : (s.setDbp v).rem = s.rem := rfl
@[simp] theorem State.setDbp_phase (s : State) (v : Nat) : (s.setDbp v).phase = s.phase := rfl
@[simp] theorem State.setDbp_dbp (s : State) (v : Nat) : (s.setDbp v).dbp = v := rfl
@[simp] theorem State.setDbp_dbr (s : State) (v : Nat) : (s.setDbp v).dbr = s.dbr := rfl
@[simp] theorem State.setDbp_hwc (s : State) (v : Nat) : (s.setDbp v).hwc = s.hwc := rfl
@[simp] theorem State.setDbp_q (s : State) (v : Nat) : (s.setDbp v).q = s.q := rfl
@[simp] theorem State.setDbp_cc (s : State) (v : Nat) : (s.setDbp v).cc = s.cc := rfl
@[simp] theorem State.setDbp_stim (s : State) (v : Nat) : (s.setDbp v).stim = s.stim := rfl

@[simp] theorem State.setDbr_cfg (s : State) (v : Nat) : (s.setDbr v).cfg = s.cfg := rfl
@[simp] theorem State.setDbr_pwr (s : State) (v : Nat) : (s.setDbr v).pwr = s.pwr := rfl
@[simp] theorem State.setDbr_duty (s : State) (v : Nat) : (s.setDbr v).duty = s.duty := rfl
@[simp] theorem State.setDbr_rem (s : State) (v : Nat) : (s.setDbr v).rem = s.rem := rfl
@[simp] theorem State.setDbr_phase (s : State) (v : Nat) : (s.setDbr v).phase = s.phase := rfl
@[simp] theorem State.setDbr_dbp (s : State) (v : Nat) : (s.setDbr v).dbp = s.dbp := rfl
@[simp] theorem State.setDbr_dbr (s : State) (v : Nat) : (s.setDbr v).dbr = v := rfl
@[simp] theorem State.setDbr_hwc (s : State) (v : Nat) : (s.setDbr v).hwc = s.hwc := rfl
@[simp] theorem State.setDbr_q (s : State) (v : Nat) : (s.setDbr v).q = s.q := rfl
@[simp] theorem State.setDbr_cc (s : State) (v : Nat) : (s.setDbr v).cc = s.cc := rfl
@[simp] theorem State.setDbr_stim (s : State) (v : Nat) : (s.setDbr v).stim = s.stim := rfl

@[simp] theorem State.setHwc_cfg (s : State) (v : Nat) : (s.setHwc v).cfg = s.cfg := rfl
@[simp] theorem State.setHwc_pwr (s : State) (v : Nat) : (s.setHwc v).pwr = s.pwr := rfl
@[simp] theorem State.setHwc_duty (s : State) (v : Nat) : (s.setHwc v).duty = s.duty := rfl
@[simp] theorem State.setHwc_rem (s : State) (v : Nat) : (s.setHwc v).rem = s.rem := rfl
@[simp] theorem State.setHwc_phase (s : State) (v : Nat) : (s.setHwc v).phase = s.phase := rfl
@[simp] theorem State.setHwc_dbp (s : State) (v : Nat) : (s.setHwc v).dbp = s.dbp := rfl
@[simp] theorem State.setHwc_dbr (s : State) (v : Nat) : (s.setHwc v).dbr = s.dbr := rfl
@[simp] theorem State.setHwc_hwc (s : State) (v : Nat) : (s.setHwc v).hwc = v := rfl
@[simp] theorem State.setHwc_q (s : State) (v : Nat) : (s.setHwc v).q = s.q := rfl
@[simp] theorem State.setHwc_cc (s : State) (v : Nat) : (s.setHwc v).cc = s.cc := rfl
@[simp] theorem State.setHwc_stim (s : State) (v : Nat) : (s.setHwc v).stim = s.stim := rfl

@[simp] theorem State.setQ_cfg (s : State) (v : List Nat) : (s.setQ v).cfg = s.cfg := rfl
@[simp] theorem State.setQ_pwr (s : State) (v : List Nat) : (s.setQ v).pwr = s.pwr := rfl
@[simp] theorem State.setQ_duty (s : State) (v : List Nat) : (s.setQ v).duty = s.duty := rfl
@[simp] theorem State.setQ_rem (s : State) (v : List Nat) : (s.setQ v).rem = s.rem := rfl
@[simp] theorem State.setQ_phase (s : State) (v : List Nat) : (s.setQ v).phase = s.phase := rfl
@[simp] theorem State.setQ_dbp (s : State) (v : List Nat) : (s.setQ v).dbp = s.dbp := rfl
@[simp] theorem State.setQ_dbr (s : State) (v : List Nat) : (s.setQ v).dbr = s.dbr := rfl
@[simp] theorem State.setQ_hwc (s : State) (v : List Nat) : (s.setQ v).hwc = s.hwc := rfl
@[simp] theorem State.setQ_q (s : State) (v : List Nat) : (s.setQ v).q = v := rfl
@[simp] theorem State.setQ_cc (s : State) (v : List Nat) : (s.setQ v).cc = s.cc := rfl
@[simp] theorem State.setQ_stim (s : State) (v : List Nat) : (s.setQ v).stim = s.stim := rfl

@[simp] theorem State.setCc_cfg (s : State) (v : List Nat) : (s.setCc v).cfg = s.cfg := rfl
@[simp] theorem State.setCc_pwr (s : State) (v : List Nat) : (s.setCc v).pwr = s.pwr := rfl
@[simp] theorem State.setCc_duty (s : State) (v : List Nat) : (s.setCc v).duty = s.duty := rfl
@[simp] theorem State.setCc_rem (s : State) (v : List Nat) : (s.setCc v).rem = s.rem := rfl
@[simp] theorem State.setCc_phase (s : State) (v : List Nat) : (s.setCc v).phase = s.phase := rfl
@[simp] theorem State.setCc_dbp (s : State) (v : List Nat) : (s.setCc v).dbp = s.dbp := rfl
@[simp] theorem State.setCc_dbr (s : State) (v : List Nat) : (s.setCc v).dbr = s.dbr := rfl
@[simp] theorem State.setCc_hwc (s : State) (v : List Nat) : (s.setCc v).hwc = s.hwc := rfl
@[simp] theorem State.setCc_q (s : State) (v : List Nat) : (s.setCc v).q = s.q := rfl
@[simp] theorem State.setCc_cc (s : State) (v : List Nat) : (s.setCc v).cc = v := rfl
@[simp] theorem State.setCc_stim (s : State) (v : List Nat) : (s.setCc v).stim = s.stim := rfl

@[simp] theorem State.setStim_cfg (s : State) (v : List Word) : (s.setStim v).cfg = s.cfg := rfl
@[simp] theorem State.setStim_pwr (s : State) (v : List Word) : (s.setStim v).pwr = s.pwr := rfl
@[simp] theorem State.setStim_duty (s : State) (v : List Word) : (s.setStim v).duty = s.duty := rfl
@[simp] theorem State.setStim_rem (s : State) (v : List Word) : (s.setStim v).rem = s.rem := rfl
@[simp] theorem State.setStim_phase (s : State) (v : List Word) : (s.setStim v).phase = s.phase := rfl
@[simp] theorem State.setStim_dbp (s : State) (v : List Word) : (s.setStim v).dbp = s.dbp := rfl
@[simp] theorem State.setStim_dbr (s : State) (v : List Word) : (s.setStim v).dbr = s.dbr := rfl
@[simp] theorem State.setStim_hwc (s : State) (v : List Word) : (s.setStim v).hwc = s.hwc := rfl
@[simp] theorem State.setStim_q (s : State) (v : List Word) : (s.setStim v).q = s.q := rfl
@[simp] theorem State.setStim_cc (s : State) (v : List Word) : (s.setStim v).cc = s.cc := rfl
@[simp] theorem State.setStim_stim (s : State) (v : List Word) : (s.setStim v).stim = v := rfl

@[simp] theorem State.resetOf_cfg (c : Config) (ws : List Word) : (State.resetOf c ws).cfg = c := rfl
@[simp] theorem State.resetOf_pwr (c : Config) (ws : List Word) : (State.resetOf c ws).pwr = .off := rfl
@[simp] theorem State.resetOf_duty (c : Config) (ws : List Word) : (State.resetOf c ws).duty = 0 := rfl
@[simp] theorem State.resetOf_rem (c : Config) (ws : List Word) : (State.resetOf c ws).rem = c.remReset := rfl
@[simp] theorem State.resetOf_phase (c : Config) (ws : List Word) : (State.resetOf c ws).phase = .test := rfl
@[simp] theorem State.resetOf_dbp (c : Config) (ws : List Word) : (State.resetOf c ws).dbp = 0 := rfl
@[simp] theorem State.resetOf_dbr (c : Config) (ws : List Word) : (State.resetOf c ws).dbr = 0 := rfl
@[simp] theorem State.resetOf_hwc (c : Config) (ws : List Word) : (State.resetOf c ws).hwc = 0 := rfl
@[simp] theorem State.resetOf_q (c : Config) (ws : List Word) : (State.resetOf c ws).q = [] := rfl
@[simp] theorem State.resetOf_cc (c : Config) (ws : List Word) : (State.resetOf c ws).cc = List.replicate c.nCh 0 := rfl
@[simp] theorem State.resetOf_stim (c : Config) (ws : List Word) : (State.resetOf c ws).stim = ws := rfl

/-- Two states are equal when all their fields are. -/
theorem State.ext_fields {s t : State} (hcfg : s.cfg = t.cfg) (hpwr : s.pwr = t.pwr) (hduty : s.duty = t.duty)
    (hrem : s.rem = t.rem) (hphase : s.phase = t.phase) (hdbp : s.dbp = t.dbp) (hdbr : s.dbr = t.dbr)
    (hhwc : s.hwc = t.hwc) (hq : s.q = t.q) (hcc : s.cc = t.cc) (hstim : s.stim = t.stim) : s = t := by
  cases s; cases t; simp_all

end Sys2Proof.Machine
end

