-- ==== Sys2Proof/Laws/Ops.lean ====
section
/-! SUPPORT. What the queue operations and the PWM operations can do. -/

namespace Sys2Proof.Machine

theorem qPush_of_room {s : State} (v : Nat) (h : s.q.length < s.cfg.qCap) :
    qPush v s = s.setQ (s.q ++ [v]) := by simp [qPush, State.qlen, h]

theorem qPush_of_full {s : State} (v : Nat) (h : s.cfg.qCap ≤ s.q.length) : qPush v s = s := by
  simp [qPush, State.qlen, Nat.not_lt.mpr h]

/-- A push touches the queue alone. -/
theorem qPush_eq (v : Nat) (s : State) :
    qPush v s = s.setQ (if s.q.length < s.cfg.qCap then s.q ++ [v] else s.q) := by
  unfold qPush State.qlen; split <;> rfl

/-- A pop answers the head and leaves the tail; it answers nothing exactly on an empty queue. -/
theorem qPop_cases (s : State) :
    (s.q = [] ∧ qPop s = none) ∨ ∃ x rest, s.q = x :: rest ∧ qPop s = some (x, s.setQ rest) := by
  cases h : s.q with
  | nil => exact .inl ⟨rfl, by simp [qPop, h]⟩
  | cons x rest => exact .inr ⟨x, rest, rfl, by simp [qPop, h]⟩

@[simp] theorem level_zero (c : Config) : level c 0 = 0 := by simp [level]

theorem level_mono (c : Config) {p p' : Nat} (h : p ≤ p') : level c p ≤ level c p' :=
  Nat.div_le_div_right (Nat.mul_le_mul_left _ h)

/-- Applying a duty value touches the compare levels alone. -/
theorem applyDuty_eq (p : Nat) (s : State) :
    applyDuty p s = { s with cc := List.replicate s.cfg.nCh (level s.cfg p) } := rfl

end Sys2Proof.Machine
end

