-- ==== Sys2Proof/Laws/Controller.lean ====
section
/-! SUPPORT. The controller's operations as one record update each. -/

namespace Sys2Proof.Machine

theorem toggleOn_eq (s : State) : toggleOn s =
    { s with
      pwr := .on
      duty := if s.rem = 0 then s.cfg.restoreDefault else s.rem
      cc := List.replicate s.cfg.nCh (level s.cfg (if s.rem = 0 then s.cfg.restoreDefault else s.rem)) } := rfl

theorem toggleOff_eq (s : State) : toggleOff s =
    { s with pwr := .off, duty := 0, rem := s.duty, cc := List.replicate s.cfg.nCh 0 } := by
  simp [toggleOff, applyDuty, State.setRem, State.setDuty, State.setCc, State.setPwr]

theorem toggle_of_off {s : State} (h : s.pwr = .off) : toggle s = toggleOn s := by simp [toggle, h]

theorem toggle_of_on {s : State} (h : s.pwr = .on) : toggle s = toggleOff s := by simp [toggle, h]

/-- A drain attempt while ON with an entry moves the oldest entry into DUTY and the outputs. -/
theorem drainAttempt_of_entry {s : State} {x : Nat} {rest : List Nat} (hp : s.pwr = .on)
    (hq : s.q = x :: rest) : drainAttempt s =
    { s with duty := x, q := rest, cc := List.replicate s.cfg.nCh (level s.cfg x) } := by
  simp [drainAttempt, qPop, hp, hq, applyDuty, State.setQ, State.setDuty, State.setCc]

/-- A drain attempt while OFF or on an empty queue does nothing. -/
theorem drainAttempt_of_nothing {s : State} (h : s.pwr = .off ∨ s.q = []) : drainAttempt s = s := by
  cases hp : s.pwr with
  | off => simp [drainAttempt, hp]
  | on => simp [drainAttempt, qPop, hp, h.resolve_left (by simp [hp])]

/-- Everything a drain attempt can do. -/
theorem drainAttempt_cases (s : State) :
    drainAttempt s = s ∨
    ∃ x rest, s.pwr = .on ∧ s.q = x :: rest ∧
      drainAttempt s = { s with duty := x, q := rest, cc := List.replicate s.cfg.nCh (level s.cfg x) } := by
  cases hp : s.pwr with
  | off => exact .inl (drainAttempt_of_nothing (.inl hp))
  | on =>
    cases hq : s.q with
    | nil => exact .inl (drainAttempt_of_nothing (.inr hq))
    | cons x rest => exact .inr ⟨x, rest, rfl, rfl, by rw [drainAttempt_of_entry hp hq, hp]⟩

theorem endIteration_eq (s : State) : endIteration s = { drainAttempt s with phase := .test } := rfl

/-- The end of an iteration that drains. -/
theorem endIteration_of_entry {s : State} {x : Nat} {rest : List Nat} (hp : s.pwr = .on)
    (hq : s.q = x :: rest) : endIteration s =
    { s with
      duty := x, q := rest, cc := List.replicate s.cfg.nCh (level s.cfg x), phase := .test } := by
  rw [endIteration_eq, drainAttempt_of_entry hp hq]

/-- The end of an iteration that drains nothing. -/
theorem endIteration_of_nothing {s : State} (h : s.pwr = .off ∨ s.q = []) :
    endIteration s = { s with phase := .test } := by
  rw [endIteration_eq, drainAttempt_of_nothing h]

theorem enterHoldWait_eq (s : State) : enterHoldWait s =
    if s.cfg.holdTicks = 0 then { s with phase := .holdPoll }
    else { s with phase := .holdWait, hwc := s.cfg.holdTicks } := rfl

theorem holdTick_eq (s : State) : holdTick s =
    if s.hwc - 1 = 0 then { s with phase := .holdPoll, hwc := 0 } else { s with hwc := s.hwc - 1 } := by
  unfold holdTick
  by_cases h : s.hwc - 1 = 0 <;> simp [State.setHwc, State.setPhase, h]

end Sys2Proof.Machine
end

