-- ==== Sys2Proof/Laws/Invariant.lean ====
section
/-! SUPPORT. What the state check and the guard answer. -/

namespace Sys2Proof.Machine

/-- The finite form of I3 says what R34 says: some legal duty value. -/
theorem I3_iff (s : State) : I3 s ↔
    s.cc.length = s.cfg.nCh ∧ ∃ p, s.cfg.LegalDuty p ∧ ∀ l ∈ s.cc, l = level s.cfg p := by
  constructor
  · rintro ⟨hlen, p, -, hp⟩; exact ⟨hlen, p, hp⟩
  · rintro ⟨hlen, p, hp, hl⟩
    exact ⟨hlen, p, List.mem_range.mpr (Nat.lt_succ_of_le hp.2.1), hp, hl⟩

/-- I3 as one equation: the outputs are N_CH copies of one legal level. -/
theorem I3_iff_replicate (s : State) : I3 s ↔
    ∃ p, s.cfg.LegalDuty p ∧ s.cc = List.replicate s.cfg.nCh (level s.cfg p) := by
  rw [I3_iff]
  constructor
  · rintro ⟨hlen, p, hp, hl⟩; exact ⟨p, hp, List.eq_replicate_iff.mpr ⟨hlen, hl⟩⟩
  · rintro ⟨p, hp, hcc⟩
    obtain ⟨hlen, hl⟩ := List.eq_replicate_iff.mp hcc
    exact ⟨hlen, p, hp, hl⟩

/-- No register is reported exactly when R34 holds. -/
theorem firstBroken_eq_none_iff (s : State) : firstBroken s = none ↔ Inv s := by
  unfold firstBroken
  constructor
  · intro h
    split_ifs at h with h2 hd hr h5 hp hb h6 h3 hq
    exact ⟨⟨hd, hr, hq⟩, h2, h3, ⟨hp.1, hp.2, hb⟩, h5, h6⟩
  · rintro ⟨⟨hd, hr, hq⟩, h2, h3, ⟨hor, hp, hb⟩, h5, h6⟩
    rw [if_neg (not_not.mpr h2), if_neg (not_not.mpr hd), if_neg (not_not.mpr hr),
      if_neg (not_not.mpr h5), if_neg (not_not.mpr ⟨hor, hp⟩), if_neg (not_not.mpr hb),
      if_neg (not_not.mpr h6), if_neg (not_not.mpr h3), if_neg (not_not.mpr hq)]

/-- The state check passes exactly when R34 holds. -/
theorem stateCheck_eq_none_iff (s : State) : stateCheck s = none ↔ Inv s := by
  unfold stateCheck
  split
  · rename_i h; simp [h]
  · rw [Option.map_eq_none_iff, firstBroken_eq_none_iff]

theorem stateCheck_of_reserved {s : State} (h : s.phase = .reserved) :
    stateCheck s = some (.phaseReserved 3#2) := by simp [stateCheck, h]

theorem stateCheck_of_broken {s : State} (h : s.phase ≠ .reserved) :
    stateCheck s = (firstBroken s).map .stateOutOfInvariant := by simp [stateCheck, h]

theorem guarded_of_inv {s : State} (h : Inv s) (rule : State → Host.Outcome State Fault Refusal) :
    guarded s rule = rule s := by
  simp [guarded, (stateCheck_eq_none_iff s).mpr h]

theorem guarded_of_check {s : State} {r : Refusal} (h : stateCheck s = some r)
    (rule : State → Host.Outcome State Fault Refusal) : guarded s rule = .refused r := by
  simp [guarded, h]

/-- A guarded rule goes on only from a state that meets R34, and then does what the rule does. -/
theorem guarded_next {s t : State} {rule : State → Host.Outcome State Fault Refusal}
    (h : guarded s rule = .next t) : Inv s ∧ rule s = .next t := by
  by_cases hi : Inv s
  · exact ⟨hi, by rwa [guarded_of_inv hi] at h⟩
  · cases hc : stateCheck s with
    | none => exact absurd ((stateCheck_eq_none_iff s).mp hc) hi
    | some r => rw [guarded_of_check hc] at h; cases h

/-- The state check does not read the words still to come. -/
@[simp] theorem stateCheck_setStim (s : State) (ws : List Word) : stateCheck (s.setStim ws) = stateCheck s := rfl

/-- R34 does not speak of the words still to come. -/
@[simp] theorem Inv_setStim (s : State) (ws : List Word) : Inv (s.setStim ws) ↔ Inv s := Iff.rfl

end Sys2Proof.Machine
end

