-- ==== Sys2Proof/Laws/Debounce.lean ====
section
/-! SUPPORT. What one debounce sample and the rule of SMP can do. -/

namespace Sys2Proof.Machine

theorem debounce_pressed {s : State} (h : s.dbp + 1 = s.cfg.dbTh) :
    debounce true s = ({ s with dbp := 0, dbr := 0 }, some .pressed) := by
  simp [debounce, h, State.setDbp, State.setDbr]

theorem debounce_released {s : State} (h : s.dbr + 1 = s.cfg.dbTh) :
    debounce false s = ({ s with dbp := 0, dbr := 0 }, some .released) := by
  have : (0 : Nat) ≠ s.cfg.dbTh := by omega
  simp [debounce, h, this, State.setDbp, State.setDbr]

theorem debounce_counts_pressed {s : State} (h : s.dbp + 1 ≠ s.cfg.dbTh) (hth : 0 < s.cfg.dbTh) :
    debounce true s = ({ s with dbp := s.dbp + 1, dbr := 0 }, none) := by
  have : (0 : Nat) ≠ s.cfg.dbTh := by omega
  simp [debounce, h, this, State.setDbp, State.setDbr]

theorem debounce_counts_released {s : State} (h : s.dbr + 1 ≠ s.cfg.dbTh) (hth : 0 < s.cfg.dbTh) :
    debounce false s = ({ s with dbp := 0, dbr := s.dbr + 1 }, none) := by
  have : (0 : Nat) ≠ s.cfg.dbTh := by omega
  simp [debounce, h, this, State.setDbp, State.setDbr]

/-- Everything one sample can do, for a positive threshold. -/
theorem debounce_cases (r : Bool) {s : State} (hth : 0 < s.cfg.dbTh) :
    (r = true ∧ s.dbp + 1 = s.cfg.dbTh ∧ debounce r s = ({ s with dbp := 0, dbr := 0 }, some .pressed)) ∨
    (r = false ∧ s.dbr + 1 = s.cfg.dbTh ∧ debounce r s = ({ s with dbp := 0, dbr := 0 }, some .released)) ∨
    (r = true ∧ s.dbp + 1 ≠ s.cfg.dbTh ∧ debounce r s = ({ s with dbp := s.dbp + 1, dbr := 0 }, none)) ∨
    (r = false ∧ s.dbr + 1 ≠ s.cfg.dbTh ∧ debounce r s = ({ s with dbp := 0, dbr := s.dbr + 1 }, none)) := by
  cases r with
  | true =>
    by_cases h : s.dbp + 1 = s.cfg.dbTh
    · exact .inl ⟨rfl, h, debounce_pressed h⟩
    · exact .inr (.inr (.inl ⟨rfl, h, debounce_counts_pressed h hth⟩))
  | false =>
    by_cases h : s.dbr + 1 = s.cfg.dbTh
    · exact .inr (.inl ⟨rfl, h, debounce_released h⟩)
    · exact .inr (.inr (.inr ⟨rfl, h, debounce_counts_released h hth⟩))

theorem sample_pressed {s : State} (onVerdict : Verdict → State → State) (h : s.dbp + 1 = s.cfg.dbTh) :
    sample true onVerdict s = onVerdict .pressed { s with dbp := 0, dbr := 0 } := by
  rw [sample, debounce_pressed h]

theorem sample_released {s : State} (onVerdict : Verdict → State → State) (h : s.dbr + 1 = s.cfg.dbTh) :
    sample false onVerdict s = onVerdict .released { s with dbp := 0, dbr := 0 } := by
  rw [sample, debounce_released h]

theorem sample_counts_pressed {s : State} (onVerdict : Verdict → State → State)
    (h : s.dbp + 1 ≠ s.cfg.dbTh) (hth : 0 < s.cfg.dbTh) :
    sample true onVerdict s = { s with dbp := s.dbp + 1, dbr := 0 } := by
  rw [sample, debounce_counts_pressed h hth]

theorem sample_counts_released {s : State} (onVerdict : Verdict → State → State)
    (h : s.dbr + 1 ≠ s.cfg.dbTh) (hth : 0 < s.cfg.dbTh) :
    sample false onVerdict s = { s with dbp := 0, dbr := s.dbr + 1 } := by
  rw [sample, debounce_counts_released h hth]

theorem smpRule_of_test {s : State} (r : Bool) (h : s.phase = .test) :
    smpRule r s = .next (sample r onTestVerdict s) := by rw [smpRule, h]

theorem smpRule_of_holdPoll {s : State} (r : Bool) (h : s.phase = .holdPoll) :
    smpRule r s = .next (sample r onHoldVerdict s) := by rw [smpRule, h]

theorem smpRule_of_holdWait {s : State} (r : Bool) (h : s.phase = .holdWait) :
    smpRule r s = .next (holdTick s) := by rw [smpRule, h]

/-- Everything the rule of SMP can do from a state that meets R34: the two toggles, the start of a hold
wait, the end of an iteration with and without a drain, the two counts, and a tick of the hold wait. -/
theorem smpRule_cases (r : Bool) {s t : State} (hi : Inv s) (h : smpRule r s = .next t) :
    (s.phase = .test ∧ s.pwr = .off ∧ r = true ∧ s.dbp + 1 = s.cfg.dbTh ∧
      t = { s with
        pwr := .on
        duty := if s.rem = 0 then s.cfg.restoreDefault else s.rem
        cc := List.replicate s.cfg.nCh (level s.cfg (if s.rem = 0 then s.cfg.restoreDefault else s.rem))
        phase := .holdPoll, dbp := 0, dbr := 0 }) ∨
    (s.phase = .test ∧ s.pwr = .on ∧ r = true ∧ s.dbp + 1 = s.cfg.dbTh ∧
      t = { s with
        pwr := .off, duty := 0, rem := s.duty, cc := List.replicate s.cfg.nCh 0
        phase := .holdPoll, dbp := 0, dbr := 0 }) ∨
    (s.phase = .holdPoll ∧ r = true ∧ s.dbp + 1 = s.cfg.dbTh ∧
      ((s.cfg.holdTicks = 0 ∧ t = { s with dbp := 0, dbr := 0 }) ∨
       (s.cfg.holdTicks ≠ 0 ∧
         t = { s with phase := .holdWait, hwc := s.cfg.holdTicks, dbp := 0, dbr := 0 }))) ∨
    ((s.phase = .test ∨ s.phase = .holdPoll) ∧ r = false ∧ s.dbr + 1 = s.cfg.dbTh ∧
      ((∃ x rest, s.pwr = .on ∧ s.q = x :: rest ∧
         t = { s with
           duty := x, q := rest, cc := List.replicate s.cfg.nCh (level s.cfg x)
           phase := .test, dbp := 0, dbr := 0 }) ∨
       ((s.pwr = .off ∨ s.q = []) ∧ t = { s with phase := .test, dbp := 0, dbr := 0 }))) ∨
    ((s.phase = .test ∨ s.phase = .holdPoll) ∧ r = true ∧ s.dbp + 1 ≠ s.cfg.dbTh ∧
      t = { s with dbp := s.dbp + 1, dbr := 0 }) ∨
    ((s.phase = .test ∨ s.phase = .holdPoll) ∧ r = false ∧ s.dbr + 1 ≠ s.cfg.dbTh ∧
      t = { s with dbp := 0, dbr := s.dbr + 1 }) ∨
    (s.phase = .holdWait ∧
      ((s.hwc - 1 = 0 ∧ t = { s with phase := .holdPoll, hwc := 0 }) ∨
       (s.hwc - 1 ≠ 0 ∧ t = { s with hwc := s.hwc - 1 }))) := by
  have hth : 0 < s.cfg.dbTh := by have := hi.2.2.2.1.2.1; omega
  have released (hp : s.phase = .test ∨ s.phase = .holdPoll) (hd : s.dbr + 1 = s.cfg.dbTh)
      (ht : t = endIteration { s with dbp := 0, dbr := 0 }) :
      (∃ x rest, s.pwr = .on ∧ s.q = x :: rest ∧
         t = { s with
           duty := x, q := rest, cc := List.replicate s.cfg.nCh (level s.cfg x)
           phase := .test, dbp := 0, dbr := 0 }) ∨
       ((s.pwr = .off ∨ s.q = []) ∧ t = { s with phase := .test, dbp := 0, dbr := 0 }) := by
    obtain hn | ⟨x, rest, ho, hq, hd⟩ := drainAttempt_cases { s with dbp := 0, dbr := 0 }
    · by_cases hne : s.pwr = .off ∨ s.q = []
      · exact .inr ⟨hne, by rw [ht, endIteration_of_nothing (s := { s with dbp := 0, dbr := 0 }) hne]⟩
      · obtain ⟨ho, hq⟩ := not_or.mp hne
        obtain ⟨x, rest, hq⟩ := List.exists_cons_of_ne_nil hq
        have ho : s.pwr = .on := by cases h : s.pwr <;> simp_all
        exact .inl ⟨x, rest, ho, hq,
          by rw [ht, endIteration_of_entry (s := { s with dbp := 0, dbr := 0 }) ho hq]⟩
    · exact .inl ⟨x, rest, ho, hq,
        by rw [ht, endIteration_of_entry (s := { s with dbp := 0, dbr := 0 }) ho hq]⟩
  cases hp : s.phase with
  | test =>
    rw [smpRule_of_test r hp] at h
    have h := Host.Outcome.next.inj h
    cases r with
    | true =>
      by_cases hd : s.dbp + 1 = s.cfg.dbTh
      · rw [sample_pressed _ hd] at h
        cases ho : s.pwr with
        | off =>
          rw [onTestVerdict, toggle_of_off (s := { s with dbp := 0, dbr := 0 }) ho, toggleOn_eq] at h
          exact .inl ⟨rfl, rfl, rfl, hd, h.symm⟩
        | on =>
          rw [onTestVerdict, toggle_of_on (s := { s with dbp := 0, dbr := 0 }) ho, toggleOff_eq] at h
          exact .inr (.inl ⟨rfl, rfl, rfl, hd, h.symm⟩)
      · rw [sample_counts_pressed _ hd hth] at h
        exact .inr (.inr (.inr (.inr (.inl ⟨.inl rfl, rfl, hd, by rw [← h, hp]⟩))))
    | false =>
      by_cases hd : s.dbr + 1 = s.cfg.dbTh
      · rw [sample_released _ hd] at h
        exact .inr (.inr (.inr (.inl ⟨.inl rfl, rfl, hd, released (.inl hp) hd h.symm⟩)))
      · rw [sample_counts_released _ hd hth] at h
        exact .inr (.inr (.inr (.inr (.inr (.inl ⟨.inl rfl, rfl, hd, by rw [← h, hp]⟩)))))
  | holdPoll =>
    rw [smpRule_of_holdPoll r hp] at h
    have h := Host.Outcome.next.inj h
    cases r with
    | true =>
      by_cases hd : s.dbp + 1 = s.cfg.dbTh
      · rw [sample_pressed _ hd, onHoldVerdict, enterHoldWait_eq] at h
        refine .inr (.inr (.inl ⟨rfl, rfl, hd, ?_⟩))
        by_cases hk : s.cfg.holdTicks = 0
        · rw [if_pos hk] at h; exact .inl ⟨hk, h.symm⟩
        · rw [if_neg hk] at h; exact .inr ⟨hk, h.symm⟩
      · rw [sample_counts_pressed _ hd hth] at h
        exact .inr (.inr (.inr (.inr (.inl ⟨.inr rfl, rfl, hd, by rw [← h, hp]⟩))))
    | false =>
      by_cases hd : s.dbr + 1 = s.cfg.dbTh
      · rw [sample_released _ hd] at h
        exact .inr (.inr (.inr (.inl ⟨.inr rfl, rfl, hd, released (.inr hp) hd h.symm⟩)))
      · rw [sample_counts_released _ hd hth] at h
        exact .inr (.inr (.inr (.inr (.inr (.inl ⟨.inr rfl, rfl, hd, by rw [← h, hp]⟩)))))
  | holdWait =>
    rw [smpRule_of_holdWait r hp, holdTick_eq] at h
    have h := Host.Outcome.next.inj h
    refine .inr (.inr (.inr (.inr (.inr (.inr ⟨rfl, ?_⟩)))))
    by_cases hk : s.hwc - 1 = 0
    · rw [if_pos hk] at h; exact .inl ⟨hk, h.symm⟩
    · rw [if_neg hk] at h; exact .inr ⟨hk, by rw [← h, hp]⟩
  | reserved => exact absurd hp hi.2.2.2.2.1.1

end Sys2Proof.Machine
end

