-- ==== Sys2Proof/Laws/Encoder.lean ====
section
/-! SUPPORT. What the encoder's operations can do. -/

namespace Sys2Proof.Machine

/-- Publishing writes DUTY, and the queue when it has room. -/
theorem publish_eq (v : Nat) (s : State) : publish v s =
    { s with duty := v, q := if s.q.length < s.cfg.qCap then s.q ++ [v] else s.q } := by
  simp [publish, qPush_eq, State.setQ, State.setDuty]

/-- The rule of ENC changes nothing or publishes one new value. -/
theorem encRule_cases (b : Bool) (s : State) :
    encRule b s = s ∨
    (b = false ∧ s.duty < s.cfg.dutyMax ∧
      encRule b s = publish (min (s.duty + s.cfg.dutyStep) s.cfg.dutyMax) s) ∨
    (b = true ∧ s.cfg.dutyMin < s.duty ∧
      encRule b s = publish (max (s.duty - s.cfg.dutyStep) s.cfg.dutyMin) s) := by
  cases b with
  | false =>
    by_cases h : s.duty < s.cfg.dutyMax
    · exact .inr (.inl ⟨rfl, h, by simp [encRule, direction, encIncrease, h]⟩)
    · exact .inl (by simp [encRule, direction, encIncrease, h])
  | true =>
    by_cases h : s.cfg.dutyMin < s.duty
    · exact .inr (.inr ⟨rfl, h, by simp [encRule, direction, encDecrease, h]⟩)
    · exact .inl (by simp [encRule, direction, encDecrease, h])

end Sys2Proof.Machine
end

