-- ==== Sys2Proof/Laws/PerInstr.lean ====
section
/-! SUPPORT. What is said of each instruction as syntax, one lemma per constructor. -/

namespace Sys2Proof.Laws

namespace EncodeRoundTrip

/-- The instruction's word lies in its own row of the table of R71 and decodes back to it. -/
def Statement (i : Instr) : Prop := encode i &&& maskOf i = matchOf i ∧ decode (encode i) = some i

theorem nop : Statement .nop := ⟨by decide, by decide⟩

theorem smp (r : Bool) : Statement (.smp r) := by cases r <;> exact ⟨by decide, by decide⟩

theorem enc (b : Bool) : Statement (.enc b) := by cases b <;> exact ⟨by decide, by decide⟩

theorem rst : Statement .rst := ⟨by decide, by decide⟩

end EncodeRoundTrip

/-- Decoding an instruction's word gives the instruction back. -/
theorem decode_encode (i : Instr) : decode (encode i) = some i := by
  cases i with
  | nop => exact EncodeRoundTrip.nop.2
  | smp r => exact (EncodeRoundTrip.smp r).2
  | enc b => exact (EncodeRoundTrip.enc b).2
  | rst => exact EncodeRoundTrip.rst.2

end Sys2Proof.Laws
end

