-- ==== Sys2Proof/Laws/Step.lean ====
section
/-! SUPPORT. What one executed word and one step can do. -/

namespace Sys2Proof.Machine

theorem exec_enc (b : Bool) (s : State) :
    exec (.enc b) s = guarded s fun u => .next (encRule b u) := rfl

/-- Everything a word can do when it is not refused: RST from any state, the other words from a state
that meets R34, each by its rule. -/
theorem exec_next_cases {i : Instr} {s t : State} (h : exec i s = .next t) :
    (i = .rst ∧ t = State.resetOf s.cfg s.stim) ∨
    (Inv s ∧
      ((i = .nop ∧ t = s) ∨
       (∃ b, i = .enc b ∧ t = encRule b s) ∨
       (∃ r, i = .smp r ∧ smpRule r s = .next t))) := by
  cases i with
  | nop =>
    obtain ⟨hi, hr⟩ := guarded_next h
    cases hr; exact .inr ⟨hi, .inl ⟨rfl, rfl⟩⟩
  | smp r =>
    obtain ⟨hi, hr⟩ := guarded_next h
    exact .inr ⟨hi, .inr (.inr ⟨r, rfl, hr⟩)⟩
  | enc b =>
    rw [exec_enc] at h
    obtain ⟨hi, hr⟩ := guarded_next h
    cases hr; exact .inr ⟨hi, .inr (.inl ⟨b, rfl, rfl⟩)⟩
  | rst => cases h; exact .inl ⟨rfl, rfl⟩

theorem exec_nop_of_inv {s : State} (hi : Inv s) : exec .nop s = .next s := guarded_of_inv hi _

theorem exec_enc_of_inv {s : State} (hi : Inv s) (b : Bool) : exec (.enc b) s = .next (encRule b s) := by
  rw [exec_enc, guarded_of_inv hi]

theorem exec_smp_of_inv {s : State} (hi : Inv s) (r : Bool) : exec (.smp r) s = smpRule r s :=
  guarded_of_inv hi _

theorem exec_rst_eq (s : State) : exec .rst s = .next (State.resetOf s.cfg s.stim) := rfl

/-- Any word but RST is refused with what the state check reports. -/
theorem exec_of_check {i : Instr} {s : State} {r : Refusal} (hn : i ≠ .rst) (h : stateCheck s = some r) :
    exec i s = .refused r := by
  cases i with
  | nop => exact guarded_of_check h _
  | smp v => exact guarded_of_check h _
  | enc b => rw [exec_enc, guarded_of_check h]
  | rst => exact absurd rfl hn

theorem step_nil {s : State} (h : s.stim = []) : step s = .next s := by simp [step, takeStep, h]

theorem step_cons {s : State} {w : Word} {ws : List Word} (h : s.stim = w :: ws) :
    step s = stepWord w (s.setStim ws) := by simp [step, takeStep, h]

theorem stepWord_encode (i : Instr) (s : State) : stepWord (encode i) s = exec i s := by
  simp [stepWord, Laws.decode_encode]

end Sys2Proof.Machine
end

