-- ==== Sys2Proof/Laws/Run.lean ====
section
/-! SUPPORT. Runs over a stream of words, one word at a time. -/

namespace Sys2Proof.Machine

@[simp] theorem qPush_setStim (v : Nat) (s : State) (ws : List Word) :
    qPush v (s.setStim ws) = (qPush v s).setStim ws := by
  simp [qPush_eq, State.setStim, State.setQ]

@[simp] theorem encRule_setStim (b : Bool) (s : State) (ws : List Word) :
    encRule b (s.setStim ws) = (encRule b s).setStim ws := by
  unfold encRule
  cases direction b with
  | cw => by_cases h : s.duty < s.cfg.dutyMax <;> simp [encIncrease, publish_eq, h]; rfl
  | ccw => by_cases h : s.cfg.dutyMin < s.duty <;> simp [encDecrease, publish_eq, h]; rfl

@[simp] theorem drainAttempt_setStim (s : State) (ws : List Word) :
    drainAttempt (s.setStim ws) = (drainAttempt s).setStim ws := by
  unfold drainAttempt qPop
  cases hp : s.pwr <;> cases hq : s.q <;> simp [hp, hq]; rfl

@[simp] theorem onTestVerdict_setStim (v : Verdict) (s : State) (ws : List Word) :
    onTestVerdict v (s.setStim ws) = (onTestVerdict v s).setStim ws := by
  cases v with
  | pressed => unfold onTestVerdict toggle; cases hp : s.pwr <;> simp [hp] <;> rfl
  | released => simp only [onTestVerdict, endIteration, drainAttempt_setStim]; rfl

@[simp] theorem onHoldVerdict_setStim (v : Verdict) (s : State) (ws : List Word) :
    onHoldVerdict v (s.setStim ws) = (onHoldVerdict v s).setStim ws := by
  cases v with
  | pressed => unfold onHoldVerdict enterHoldWait; by_cases h : s.cfg.holdTicks = 0 <;> simp [h] <;> rfl
  | released => simp only [onHoldVerdict, endIteration, drainAttempt_setStim]; rfl

theorem debounce_setStim (r : Bool) (s : State) (ws : List Word) :
    debounce r (s.setStim ws) = ((debounce r s).1.setStim ws, (debounce r s).2) := by
  simp only [debounce, State.setStim_dbp, State.setStim_dbr, State.setStim_cfg]
  by_cases hp : (if r then s.dbp + 1 else 0) = s.cfg.dbTh
  · simp only [hp, if_true]; rfl
  · by_cases hq : (if r then 0 else s.dbr + 1) = s.cfg.dbTh
    · simp only [hp, hq, if_true, if_false]; rfl
    · simp only [hp, hq, if_false]; rfl

theorem sample_setStim (r : Bool) (onVerdict : Verdict → State → State) (s : State) (ws : List Word)
    (h : ∀ v u, onVerdict v (u.setStim ws) = (onVerdict v u).setStim ws) :
    sample r onVerdict (s.setStim ws) = (sample r onVerdict s).setStim ws := by
  simp only [sample, debounce_setStim]
  rcases debounce r s with ⟨u, _ | v⟩
  · rfl
  · exact h v u

@[simp] theorem holdTick_setStim (s : State) (ws : List Word) :
    holdTick (s.setStim ws) = (holdTick s).setStim ws := by
  by_cases h : s.hwc - 1 = 0 <;> simp only [holdTick_eq, State.setStim_hwc, h, if_true, if_false] <;> rfl

/-- The rule of SMP does not read the words still to come. -/
theorem smpRule_setStim (r : Bool) {s t : State} (ws : List Word) (h : smpRule r s = .next t) :
    smpRule r (s.setStim ws) = .next (t.setStim ws) := by
  unfold smpRule at h ⊢
  cases hp : s.phase <;> simp only [hp, State.setStim_phase, reduceCtorEq, Host.Outcome.next.injEq] at h ⊢
  · rw [← h, sample_setStim _ _ _ _ fun v u => onTestVerdict_setStim v u ws]
  · rw [← h, sample_setStim _ _ _ _ fun v u => onHoldVerdict_setStim v u ws]
  · rw [← h, holdTick_setStim]

/-- A word's effect does not depend on the words still to come. -/
theorem exec_setStim {i : Instr} {s t : State} (ws : List Word) (h : exec i s = .next t) :
    exec i (s.setStim ws) = .next (t.setStim ws) := by
  obtain ⟨rfl, rfl⟩ | ⟨hi, ⟨rfl, rfl⟩ | ⟨b, rfl, rfl⟩ | ⟨r, rfl, hr⟩⟩ := exec_next_cases h
  · rfl
  · exact exec_nop_of_inv ((Inv_setStim _ ws).mpr hi)
  · rw [exec_enc_of_inv ((Inv_setStim _ ws).mpr hi), encRule_setStim]
  · rw [exec_smp_of_inv ((Inv_setStim _ ws).mpr hi), smpRule_setStim r ws hr]

/-- No word's effect touches the words still to come: setting them to what they are changes nothing. -/
theorem exec_stim {i : Instr} {s t : State} (h : exec i s = .next t) : t.stim = s.stim := by
  have := exec_setStim s.stim h
  rw [show s.setStim s.stim = s from rfl, h] at this
  have := congrArg State.stim (Host.Outcome.next.inj this)
  simpa using this

theorem runOver_nil (s : State) : runOver [] s = .next (s.setStim []) := rfl

/-- A run over a word that goes on continues with the rest of the stream from the state it left. -/
theorem runOver_cons_of_next {i : Instr} {s t : State} (is : List Instr) (h : exec i s = .next t) :
    runOver (i :: is) s = runOver is t := by
  have hs : step (s.facing (i :: is)) = .next (t.facing is) := by
    rw [step_cons (w := encode i) (ws := is.map encode) rfl, stepWord_encode]
    exact exec_setStim (s := s) _ h
  show Sys2Proof.core.run (is.length + 1) _ = _
  simp only [Host.Core.run]
  rw [show Sys2Proof.core.step (s.facing (i :: is)) = .next (t.facing is) from hs]
  rfl

/-- A run of at least one word that goes on is its first word and then a run from there. -/
theorem runOver_cons_next {i : Instr} {is : List Instr} {s u : State}
    (h : runOver (i :: is) s = .next u) : ∃ t, exec i s = .next t ∧ runOver is t = .next u := by
  cases he : exec i (s.setStim (is.map encode)) with
  | next t =>
    have hs := exec_setStim s.stim he
    have hx : exec i s = .next (t.setStim s.stim) := hs
    exact ⟨_, hx, by rwa [runOver_cons_of_next is hx] at h⟩
  | fault f => cases f
  | refused r =>
    have hs : step (s.facing (i :: is)) = .refused r := by
      rw [step_cons (w := encode i) (ws := is.map encode) rfl, stepWord_encode]; exact he
    have : runOver (i :: is) s = .refused r := by
      show Sys2Proof.core.run (is.length + 1) _ = _
      simp only [Host.Core.run]
      rw [show Sys2Proof.core.step (s.facing (i :: is)) = .refused r from hs]
      rfl
    rw [this] at h; cases h

/-- A run over the words of `is` and further words does those of `is` first, and then goes on with the
further words from the state they left. -/
theorem run_words_append {is : List Instr} {s t : State} (ws : List Word) (k : Nat)
    (h : runOver is s = .next t) :
    Sys2Proof.core.run (is.length + k) (s.setStim (is.map encode ++ ws)) =
      Sys2Proof.core.run k (t.setStim ws) := by
  induction is generalizing s with
  | nil =>
    cases (runOver_nil s).symm.trans h
    rw [List.length_nil, Nat.zero_add]; rfl
  | cons i is ih =>
    obtain ⟨u, hu, hr⟩ := runOver_cons_next h
    have hs : step (s.setStim ((i :: is).map encode ++ ws)) = .next (u.setStim (is.map encode ++ ws)) := by
      rw [step_cons (w := encode i) (ws := is.map encode ++ ws) rfl, stepWord_encode]
      exact exec_setStim (s := s) _ hu
    rw [List.length_cons, Nat.add_right_comm]
    simp only [Host.Core.run]
    rw [show Sys2Proof.core.step (s.setStim ((i :: is).map encode ++ ws)) =
      .next (u.setStim (is.map encode ++ ws)) from hs]
    exact ih hr

end Sys2Proof.Machine
end

