-- ==== Sys2Proof/Laws/Stimulus.lean ====
section
/-! SUPPORT. The words that clocks present are words of instructions. -/

namespace Sys2Proof.Machine

/-- The instructions of one clock, in the reference order. -/
theorem Wires.words_eq_map_encode (porBefore : Bool) (x : Wires) :
    x.words porBefore =
      ((if x.por && !porBefore then [Instr.rst] else []) ++ (x.encARise.map Instr.enc).toList ++
        (x.smpTick.map Instr.smp).toList).map encode := by
  rcases x with ⟨p, a, b⟩
  cases p <;> cases porBefore <;> cases a <;> cases b <;> rfl

/-- A stream that clocks may present holds no reserved word. -/
theorem Wires.exists_encode_of_admitsOver {porBefore : Bool} {xs : List Wires} {ws : List Word}
    (h : Wires.AdmitsOver porBefore xs ws) : ∀ w ∈ ws, ∃ i, encode i = w := by
  induction xs generalizing porBefore ws with
  | nil => rw [show ws = [] from h]; exact fun _ hw => absurd hw List.not_mem_nil
  | cons x xs ih =>
    obtain ⟨now, later, rfl, hn, hl⟩ := h
    intro w hw
    rcases List.mem_append.mp hw with hw | hw
    · have := hn.mem_iff.mp hw
      rw [Wires.words_eq_map_encode] at this
      exact (List.mem_map.mp this).imp fun _ h => h.2
    · exact ih hl w hw

end Sys2Proof.Machine
end

