-- ==== Sys2Proof/Tests/Slice0.lean ====
section
/-! SUPPORT. The model's own tests, with expected results from 30_encoding.md and 95_test_vectors.md, and the witnesses that every statement's hypotheses can be met. -/

namespace Sys2Proof.Tests

open Sys2Proof.Machine

/-- A state at the default parameters, in the order the test vectors write one; `c` is all three channels. -/
def st (pwr : Power) (duty rem : Nat) (phase : Phase) (dbp dbr hwc : Nat) (q : List Nat) (c : Nat) : State where
  cfg := Config.default
  pwr := pwr
  duty := duty
  rem := rem
  phase := phase
  dbp := dbp
  dbr := dbr
  hwc := hwc
  q := q
  cc := [c, c, c]
  stim := []

/-- The outcome is the next state `t`. -/
def answers (o : Host.Outcome State Fault Refusal) (t : State) : Bool :=
  match o with
  | .next u => decide (u = t)
  | _ => false

/-- The outcome is the refusal `r`. -/
def refuses (o : Host.Outcome State Fault Refusal) (r : Refusal) : Bool :=
  match o with
  | .refused r' => decide (r' = r)
  | _ => false

/-- The outcome is a next state with `p`, or no next state. -/
def nextHas (o : Host.Outcome State Fault Refusal) (p : State → Bool) : Bool :=
  match o with
  | .next u => p u
  | _ => true

theorem eq_of_answers {o : Host.Outcome State Fault Refusal} {t : State} (h : answers o t = true) :
    o = .next t := by
  cases o with
  | next u => exact congrArg _ (of_decide_eq_true h)
  | fault f => cases h
  | refused r => cases h

theorem eq_of_refuses {o : Host.Outcome State Fault Refusal} {r : Refusal} (h : refuses o r = true) :
    o = .refused r := by
  cases o with
  | next u => cases h
  | fault f => cases h
  | refused r' => exact congrArg _ (of_decide_eq_true h)

theorem of_nextHas {o : Host.Outcome State Fault Refusal} {p : State → Bool} {t : State}
    (h : nextHas o p = true) (ho : o = .next t) : p t = true := by
  subst ho; exact h

/-- One hundred entries of 50, the full queue of the vectors. -/
def q100 : List Nat := List.replicate 100 50

/-! ### Configuration: each constraint of R6 refuses a record that breaks it -/

theorem test_wf_default : Config.default.WellFormed ∧ Config.default.TimingConsistent := by decide
theorem test_wf_dutyMin : ¬ ({ dutyMin := 5 } : Config).WellFormed := by decide
theorem test_wf_dutyMax : ¬ ({ dutyMax := 0, restoreDefault := 0 } : Config).WellFormed := by decide
theorem test_wf_dutyStep : ¬ ({ dutyStep := 0 } : Config).WellFormed := by decide
theorem test_wf_dutyMax_multiple : ¬ ({ dutyMax := 99 } : Config).WellFormed := by decide
theorem test_wf_restoreDefault : ¬ ({ restoreDefault := 52 } : Config).WellFormed := by decide
theorem test_wf_remReset : ¬ ({ remReset := 105 } : Config).WellFormed := by decide
theorem test_wf_dbTh : ¬ ({ dbTh := 0 } : Config).WellFormed := by decide
theorem test_wf_qCap : ¬ ({ qCap := 0 } : Config).WellFormed := by decide
theorem test_wf_pwmRes : ¬ ({ pwmRes := 0 } : Config).WellFormed := by decide

/-! ### Decoding: words written out from the table of R71; reserved words of 95_test_vectors.md 2.1 -/

theorem test_decode_nop : decode 0b00000000#8 = some .nop := by decide
theorem test_decode_smp : decode 0b00010000#8 = some (.smp false) ∧ decode 0b00010001#8 = some (.smp true) := by
  decide
theorem test_decode_enc : decode 0b00100000#8 = some (.enc false) ∧ decode 0b00100001#8 = some (.enc true) := by
  decide
theorem test_decode_rst : decode 0b11110000#8 = some .rst := by decide
theorem test_decode_reserved : [0x01#8, 0x12#8, 0x1E#8, 0x23#8, 0x30#8, 0x80#8, 0xF1#8, 0xFF#8].map decode =
    List.replicate 8 none := by decide
theorem test_tableWord : decodeTableWord 8 0x21 = some (.enc true) := by decide

/-- 95_test_vectors.md P1: its line text and its 14 bytes. -/
theorem test_assemble_p1 : assemble Config.default [.click, .rep 2 .cw, .rep 2 .idle] =
    [0x11, 0x11, 0x11, 0x10, 0x10, 0x10, 0x20, 0x20, 0x10, 0x10, 0x10, 0x10, 0x10, 0x10] := by decide
theorem test_parse_rep : parseLine ['R', 'E', 'P', ' ', '2', '3', ',', ' ', 'S', 'M', 'P', ' ', '1'] =
    some (.rep 23 (.base (.smp true))) := by decide
/-- 95_test_vectors.md line 38: the form after REP as a byte; a reserved byte is no form. -/
theorem test_parse_rep_byte : parseLine ['R', 'E', 'P', ' ', '2', '3', ',', ' ', '1', '1'] =
    some (.rep 23 (.base (.smp true))) ∧
    parseLine ['R', 'E', 'P', ' ', '2', ',', ' ', '3', '0'] = none := by decide
/-- R75: por held for three clocks, a sample in the second: one RST. -/
theorem test_por_once : Wires.wordsOver false
    [⟨true, none, none⟩, ⟨true, some true, none⟩, ⟨true, none, none⟩, ⟨false, none, some true⟩] =
    [0xF0#8, 0x11#8, 0x21#8] := by decide
theorem test_parse_hex : parseHex ['1', '1', ' ', 'F', '0'] = some [0x11, 0xF0] := by decide

/-! ### Instructions: 95_test_vectors.md, section 2, at most two an instruction -/

/-- V-SYS-2. -/
theorem test_nop_is_no_tick : exec .nop (st .on 50 0 .holdWait 0 0 3 [] 500) =
    .next (st .on 50 0 .holdWait 0 0 3 [] 500) := eq_of_answers (by decide)

/-- R202 on NOP. -/
theorem test_nop_reserved_phase : exec .nop (st .on 50 0 .reserved 0 0 0 [] 500) =
    .refused (.phaseReserved 3#2) := eq_of_refuses (by decide)

/-- The last word of V-CT-3. -/
theorem test_smp_turns_off : exec (.smp true) (st .on 70 0 .test 2 0 0 [] 700) =
    .next (st .off 0 70 .holdPoll 0 0 0 [] 0) := eq_of_answers (by decide)

/-- V-EX-5. -/
theorem test_smp_two_counters : exec (.smp false) (st .on 50 0 .test 1 1 0 [] 500) =
    .refused (.stateOutOfInvariant .dbp) := eq_of_refuses (by decide)

/-- V-ENC-7. -/
theorem test_enc_full_queue : exec (.enc false) (st .on 50 0 .test 0 0 0 q100 500) =
    .next (st .on 55 0 .test 0 0 0 q100 500) := eq_of_answers (by decide)

/-- V-EX-3. -/
theorem test_enc_bad_duty : exec (.enc false) (st .on 7 0 .test 0 0 0 [] 70) =
    .refused (.stateOutOfInvariant .duty) := eq_of_refuses (by decide)

/-- V-SYS-3. -/
theorem test_rst : exec .rst (st .on 70 40 .test 0 0 0 [75] 700) = .next (st .off 0 0 .test 0 0 0 [] 0) :=
  eq_of_answers (by decide)

/-- V-EX-4. -/
theorem test_rst_bad_state : exec .rst (st .on 7 0 .test 0 0 0 [] 70) = .next State.reset :=
  eq_of_answers (by decide)

/-- 95_test_vectors.md 2.1, word 20 from reset, through a step. -/
theorem test_step_enc : step (State.reset.withFetchWord 8 0x20) = .next (st .off 5 0 .test 0 0 0 [5] 0) :=
  eq_of_answers (by decide)

/-- V-PWM. -/
theorem test_level : (List.range 21).map (fun k => level Config.default (5 * k)) =
    [0, 50, 100, 150, 200, 250, 300, 350, 400, 450, 500, 550, 600, 650, 700, 750, 800, 850, 900, 950, 1000] := by
  decide

/-! ### Witnesses: concrete states and operands that meet each statement's hypotheses -/

theorem witness_StepRunsTheDecodedWord :
    (State.reset.setStim [0x20#8, 0xF0#8]).stim = 0x20#8 :: [0xF0#8] ∧ decode 0x20#8 = some (.enc false) ∧
    (Instr.enc false).wf = true ∧ decodeTableWord 8 0xF0 = some .rst := by decide

theorem witness_ReservedWordRefusedInEveryState :
    (State.reset.setStim [0x30#8]).stim = 0x30#8 :: [] ∧ decode 0x30#8 = none := by decide

theorem witness_IdleStepLeavesTheState : State.reset.stim = [] := by decide

theorem witness_StepConsumesOneWordInOrder : step (State.reset.setStim [0x20#8, 0x10#8]) =
    .next ((st .off 5 0 .test 0 0 0 [5] 0).setStim [0x10#8]) := eq_of_answers (by decide)

theorem witness_ConfigurationNeverChanges : step (State.reset.setStim [0xF0#8]) = .next State.reset :=
  eq_of_answers (by decide)

theorem witness_ResetMeetsTheInvariants : Config.default.WellFormed := by decide

theorem witness_ReservedPhaseRefusedWithCodeTwo :
    (st .on 50 0 .reserved 0 0 0 [] 500).phase = .reserved ∧ Instr.enc false ≠ .rst := by decide

theorem witness_BrokenInvariantRefusedWithCodeThree :
    (st .on 7 0 .test 0 0 0 [] 70).phase ≠ .reserved ∧ ¬ Inv (st .on 7 0 .test 0 0 0 [] 70) := by decide

/-- One state for each register a code 3 refusal can record. -/
theorem witness_RecordedRegisterIsTheFirstBroken :
    [st .off 0 0 .test 0 0 0 [] 50, st .on 7 0 .test 0 0 0 [] 70, st .on 50 105 .test 0 0 0 [] 500,
     st .on 50 0 .test 0 0 1 [] 500, st .on 50 0 .test 3 0 0 [] 500, st .on 50 0 .test 0 3 0 [] 500,
     st .on 50 0 .test 0 0 0 (50 :: q100) 500, st .on 50 0 .test 0 0 0 [] 501,
     st .on 50 0 .test 0 0 0 [7] 500].map firstBroken =
    [some .pwr, some .duty, some .rem, some .phase, some .dbp, some .dbr, some .qlen, some (.cc 0), some .q] := by
  decide

theorem witness_EveryWordCompletesInLegalStates : Inv State.reset := by decide

theorem witness_LegalStreamsRunWithoutRefusal : Legal State.reset := by decide

theorem witness_ClockwiseEdgeStepsUpAndPublishes :
    (Inv (st .on 95 0 .test 0 0 0 [] 950) ∧ 95 < Config.default.dutyMax) ∧
    (Inv (st .on 100 0 .test 0 0 0 [] 1000) ∧ ¬ 100 < Config.default.dutyMax) := ⟨⟨by decide, by decide⟩, by decide, by decide⟩

theorem witness_CounterClockwiseEdgeStepsDownAndPublishes :
    (Inv (st .on 5 0 .test 0 0 0 [] 50) ∧ Config.default.dutyMin < 5) ∧
    (Inv State.reset ∧ ¬ Config.default.dutyMin < State.reset.duty) := ⟨⟨by decide, by decide⟩, by decide, by decide⟩

theorem witness_ClampsNeverTakeEffectInLegalStates :
    Legal (st .on 95 0 .test 0 0 0 [] 950) ∧
    exec (.enc false) (st .on 95 0 .test 0 0 0 [] 950) = .next (st .on 100 0 .test 0 0 0 [100] 950) ∧
    exec (.enc true) (st .on 95 0 .test 0 0 0 [] 950) = .next (st .on 90 0 .test 0 0 0 [90] 950) :=
  ⟨by decide, eq_of_answers (by decide), eq_of_answers (by decide)⟩

theorem witness_EncoderWritesOnlyDutyAndQueue :
    exec (.enc false) (st .on 50 0 .holdWait 0 0 3 [] 500) = .next (st .on 55 0 .holdWait 0 0 3 [55] 500) :=
  eq_of_answers (by decide)

theorem witness_EncoderReadsOnlyDutyAndQueue :
    exec (.enc true) (st .on 50 70 .holdWait 0 0 3 [] 500) = .next (st .on 45 70 .holdWait 0 0 3 [45] 500) ∧
    exec (.enc true) (st .off 50 0 .test 2 0 0 [] 0) = .next (st .off 45 0 .test 2 0 0 [45] 0) :=
  ⟨eq_of_answers (by decide), eq_of_answers (by decide)⟩

theorem witness_FullQueueLosesOnlyThePush :
    Legal (st .on 50 0 .test 0 0 0 q100 500) ∧ q100.length = Config.default.qCap ∧
    50 < Config.default.dutyMax ∧ Config.default.dutyMin < 50 := by decide

theorem witness_SampleWithoutVerdictOnlyCounts :
    (Inv (st .off 0 0 .test 1 0 0 [] 0) ∧ Polling (st .off 0 0 .test 1 0 0 [] 0) ∧
      1 + 1 ≠ Config.default.dbTh) ∧
    (Inv (st .on 50 0 .holdPoll 0 1 0 [] 500) ∧ Polling (st .on 50 0 .holdPoll 0 1 0 [] 500)) := ⟨⟨by decide, by decide, by decide⟩, by decide, by decide⟩

theorem witness_PressWhileOffRestoresBrightness :
    (Inv (st .off 0 0 .test 2 0 0 [] 0) ∧ (st .off 0 0 .test 2 0 0 [] 0).dbp + 1 = Config.default.dbTh) ∧
    Inv (st .off 0 70 .test 2 0 0 [5] 0) := ⟨⟨by decide, by decide⟩, by decide⟩

theorem witness_PressWhileOnRemembersAndTurnsOff :
    Inv (st .on 0 0 .test 2 0 0 [55] 0) ∧ 2 + 1 = Config.default.dbTh := by decide

theorem witness_PressWhileHeldStartsTheHoldWait :
    (Inv (st .on 50 0 .holdPoll 2 0 0 [] 500) ∧ Config.default.holdTicks ≠ 0) ∧
    (let s := { st .on 50 0 .holdPoll 2 0 0 [] 500 with cfg := { holdTicks := 0 } }
     Inv s ∧ s.dbp + 1 = s.cfg.dbTh ∧ s.cfg.holdTicks = 0) := ⟨⟨by decide, by decide⟩, by decide, by decide, by decide⟩

theorem witness_ReleaseDrainsOneEntryAndEndsTheIteration :
    (Inv (st .on 60 0 .test 0 2 0 [55, 60] 500) ∧ Polling (st .on 60 0 .test 0 2 0 [55, 60] 500)) ∧
    (Inv (st .off 60 0 .holdPoll 0 2 0 [55] 0) ∧ Polling (st .off 60 0 .holdPoll 0 2 0 [55] 0)) ∧
    Inv (st .on 60 0 .test 0 2 0 [] 600) ∧ 2 + 1 = Config.default.dbTh := ⟨⟨by decide, by decide⟩, ⟨by decide, by decide⟩, by decide, by decide⟩

theorem witness_HoldTickCountsAndIgnoresTheSample :
    Inv (st .on 50 0 .holdWait 0 0 5 [] 500) ∧ Inv (st .on 50 0 .holdWait 0 0 1 [] 500) := ⟨by decide, by decide⟩

/-- A next state in each phase, with and without a verdict. -/
theorem witness_SampleWritesOnlyItsRowOfTheMatrix :
    exec (.smp true) (st .on 50 0 .holdWait 0 0 1 [] 500) = .next (st .on 50 0 .holdPoll 0 0 0 [] 500) ∧
    exec (.smp false) (st .on 50 0 .holdPoll 0 1 0 [55] 500) = .next (st .on 50 0 .holdPoll 0 2 0 [55] 500) ∧
    exec (.smp true) (st .off 0 0 .test 2 0 0 [] 0) = .next (st .on 50 0 .holdPoll 0 0 0 [] 500) ∧
    exec (.smp false) (st .on 60 0 .test 0 2 0 [] 600) = .next (st .on 60 0 .test 0 0 0 [] 600) :=
  ⟨eq_of_answers (by decide), eq_of_answers (by decide), eq_of_answers (by decide), eq_of_answers (by decide)⟩

/-- A toggle changes PWR, REM and the outputs; so does RST. For PowerChangesOnlyByResetOrPressInTest,
RememberedBrightnessChangesOnlyWhenTurningOff, OutputsChangeOnlyTogetherAndOnlyByVerdictOrReset and
QueueIsFirstInFirstOut. -/
theorem witness_writers :
    exec (.smp true) (st .on 70 40 .test 2 0 0 [] 700) = .next (st .off 0 70 .holdPoll 0 0 0 [] 0) ∧
    exec .rst (st .on 70 40 .test 2 0 0 [] 700) = .next (st .off 0 0 .test 0 0 0 [] 0) :=
  ⟨eq_of_answers (by decide), eq_of_answers (by decide)⟩

/-- A drain changes the outputs and the queue; it is also the end of a hold loop. For
OutputsChangeOnlyTogetherAndOnlyByVerdictOrReset, QueueIsFirstInFirstOut, HoldLoopEndsOnlyByReleaseOrReset
and OutputsShowDutyAfterTurningOnAndAfterADrain. -/
theorem witness_drain :
    exec (.smp false) (st .on 60 0 .holdPoll 0 2 0 [55, 60] 500) = .next (st .on 55 0 .test 0 0 0 [60] 550) ∧
    [60].length < [55, 60].length :=
  ⟨eq_of_answers (by decide), by decide⟩

/-- An OFF→ON toggle, the other premise of I7. -/
theorem witness_OutputsShowDutyAfterTurningOnAndAfterADrain :
    exec (.smp true) (st .off 0 70 .test 2 0 0 [] 0) = .next (st .on 70 70 .holdPoll 0 0 0 [] 700) :=
  eq_of_answers (by decide)

theorem witness_RegistersFitTheirWidthsInLegalStates :
    Legal (st .on 100 0 .holdWait 0 0 5 q100 1000) ∧ Config.default.dutyMax ≤ 100 := by decide

/-- One state for each code, with its last channel and the index after it. -/
theorem witness_ObservationPortReadsRegistersByIndex : I3 (st .on 55 0 .test 0 0 0 [] 550) ∧
    (st .off 0 0 .holdPoll 0 0 0 [] 0).pwr = .off ∧ (st .on 0 0 .holdWait 0 0 5 [] 0).phase = .holdWait ∧
    (st .on 55 0 .test 0 0 0 [] 550).cc[2]? = some 550 ∧ (st .on 55 0 .test 0 0 0 [] 550).cc.length ≤ 3 ∧
    (st .on 55 0 .reserved 0 0 0 [] 550).phase = .reserved := by decide

theorem witness_SimultaneousEventsRunInEveryOrder :
    Legal State.reset ∧ Wires.AdmitsOver false [⟨true, none, none⟩, ⟨true, some true, some false⟩]
      [0xF0#8, 0x11#8, 0x20#8] :=
  ⟨by decide, [0xF0#8], [0x11#8, 0x20#8], rfl, .refl _, [0x11#8, 0x20#8], [], rfl, .swap _ _ _, rfl⟩

/-- por asserted, released and asserted again: two RST words. -/
theorem witness_EveryEventPresentsExactlyOneWord :
    Wires.AdmitsOver false [⟨true, none, none⟩, ⟨false, none, none⟩, ⟨true, none, none⟩] [0xF0#8, 0xF0#8] :=
  ⟨[0xF0#8], [0xF0#8], rfl, .refl _, [], [0xF0#8], rfl, .refl _, [0xF0#8], [], rfl, .refl _, rfl⟩

theorem witness_StepKeepsTheInvariants : Legal (State.reset.setStim [0x20#8]) ∧
    step (State.reset.setStim [0x20#8]) = .next (st .off 5 0 .test 0 0 0 [5] 0) :=
  ⟨by decide, eq_of_answers (by decide)⟩

theorem witness_AcceptedWordLeavesALegalState : Config.default.WellFormed ∧
    exec .rst (st .on 7 0 .test 0 0 0 [] 70) = .next State.reset :=
  ⟨by decide, eq_of_answers (by decide)⟩

/-- V-EX-2, at its second word. -/
theorem witness_RefusalIsKeptForTheRestOfTheRun :
    Legal State.reset ∧ decode 0x30#8 = none ∧ [Instr.smp true].length < 4 ∧
    [Instr.smp true].map encode ++ 0x30#8 :: [0xF0#8, 0x11#8] = [0x11#8, 0x30#8, 0xF0#8, 0x11#8] ∧
    Sys2Proof.core.run 4 (State.reset.setStim [0x11#8, 0x30#8, 0xF0#8, 0x11#8]) =
      .refused (Refusal.reservedWord 0x30#8) :=
  ⟨by decide, by decide, by decide, by decide, eq_of_refuses (by decide)⟩

theorem witness_VerdictIsTheLastConsistentRun :
    1 ≤ State.reset.cfg.dbTh ∧ State.reset.dbp = 0 ∧ State.reset.dbr = 0 ∧
    debounceCall [true, false, true, true] State.reset = some (st .off 0 0 .test 2 0 0 [] 0) := by decide

/-- W8: a stream that never holds three consistent samples, and one that does. -/
theorem witness_CallGoesOnExactlyWithoutAConsistentRun :
    (debounceCall [true, true, false, true, true, false] State.reset).isSome = true ∧
    (debounceCall [false, true, true, true, false] State.reset).isSome = false := by decide

theorem witness_HeldButtonNeverTogglesAgain :
    Legal (st .on 50 0 .holdPoll 0 0 0 [] 500) ∧ (st .on 50 0 .holdPoll 0 0 0 [] 500).phase ≠ .test ∧
    ∀ i ∈ [Instr.smp true, .enc false, .nop], i ≠ .rst ∧ i ≠ .smp false := by decide

theorem witness_PressOfAnyLengthToggles :
    Legal State.reset ∧ State.reset.phase = .test ∧ State.reset.dbp = 0 ∧ State.reset.cfg.dbTh ≤ 3 := by decide

theorem witness_ClickTogglesOnceAndTriesOneDrain :
    Legal (st .on 60 0 .test 0 0 0 [55, 60] 500) ∧ Legal (st .off 0 60 .test 0 0 0 [55, 60] 0) ∧
    Legal State.reset := ⟨by decide, by decide, by decide⟩

/-- Turn OFF at 70, release, two pressed samples, then the press that turns ON. -/
theorem witness_OffOnRoundTripRestoresDuty :
    let s := st .on 70 0 .test 2 0 0 [] 700
    let t := st .off 0 70 .holdPoll 0 0 0 [] 0
    let is := [Instr.smp false, .smp false, .smp false, .smp true, .smp true]
    let u := st .off 0 70 .test 2 0 0 [] 0
    exec (.smp true) s = .next t ∧ (∀ k ∈ is, k ≠ .rst) ∧
    (∀ n w, n ≤ is.length → runOver (is.take n) t = .next w → w.pwr = .off) ∧
    runOver is t = .next u ∧ exec (.smp true) u = .next (st .on 70 70 .holdPoll 0 0 0 [] 700) := by
  refine ⟨eq_of_answers (by decide), by decide, ?_, eq_of_answers (by decide), eq_of_answers (by decide)⟩
  intro n w hn hw
  have all : ∀ n ∈ List.range 6, nextHas
      (runOver ([Instr.smp false, .smp false, .smp false, .smp true, .smp true].take n)
        (st .off 0 70 .holdPoll 0 0 0 [] 0)) (fun w => decide (w.pwr = .off)) = true := by decide
  exact of_decide_eq_true (of_nextHas (all n (List.mem_range.mpr (Nat.lt_succ_of_le hn))) hw)

theorem witness_KnobWhileOffIsInvisible :
    Legal State.reset ∧ State.reset.pwr = .off ∧
    ∀ i ∈ [Instr.enc false, .smp false, .nop], i ≠ .rst ∧ i ≠ .smp true := by decide

theorem witness_HoldWaitIgnoresExactlyItsTicks :
    Inv (st .on 50 0 .holdWait 0 0 5 [] 500) ∧ [true, false].length < 5 ∧
    [true, false, true, true, false].length = 5 := by decide

theorem witness_QueueReachesTheOutputsOneEntryPerIteration :
    Legal (st .on 60 0 .test 0 0 0 [55, 60] 500) ∧ 2 ≤ [55, 60].length := by decide

theorem witness_LevelIsTheFloorOfTheProduct : (100 : Nat) ≤ 100 ∧ Config.default.pwmRes = 1000 := by decide

theorem witness_HighFractionIsTheDutyPercentage : (100 : Nat) ≤ 100 := by decide

end Sys2Proof.Tests
end

section
/-! PROOFS. The statements of 00_scope.md: the step on the next word (R11) and the register widths (R7). -/

namespace Sys2Proof.Machine

/-- A word that decodes is run as its instruction. -/
theorem stepWord_of_decode {w : Word} {i : Instr} (h : decode w = some i) (s : State) :
    stepWord w s = exec i s := by simp [stepWord, h]

/-- The step on a stream whose next word decodes is the instruction, with the word taken. -/
theorem step_of_decode {s : State} {w : Word} {ws : List Word} {i : Instr} (hs : s.stim = w :: ws)
    (h : decode w = some i) : step s = exec i (s.setStim ws) :=
  (step_cons hs).trans (stepWord_of_decode h _)

@[simp] theorem State.withFetchWord_stim (s : State) (nbits w : Nat) :
    (s.withFetchWord nbits w).stim = tableWord nbits w :: s.stim := rfl

/-- Taking the placed word from the stream gives back the state in which it was placed. -/
theorem State.withFetchWord_setStim (s : State) (nbits w : Nat) :
    (s.withFetchWord nbits w).setStim s.stim = s := rfl

/-- Settles O5: the next word, pending or placed, is decoded and run. -/
theorem stepRunsTheDecodedWord : Obligations.StepRunsTheDecodedWord := by
  refine ⟨fun s w ws i hs hd _ => step_of_decode hs hd, fun s n i hd => ?_⟩
  rw [step_of_decode (s.withFetchWord_stim 8 n) hd, State.withFetchWord_setStim]

/-- Settles O7: with no word pending `takeStep` answers the state itself. -/
theorem idleStepLeavesTheState : Obligations.IdleStepLeavesTheState := fun _ h => step_nil h

/-- `bitsFor m` bits hold every value from 0 to `m`. -/
theorem lt_two_pow_bitsFor {n m : Nat} (h : n ≤ m) : n < 2 ^ Config.bitsFor m :=
  h.trans_lt Nat.lt_log2_self

theorem Power.code_lt (p : Power) : p.code < 2 ^ 1 := by cases p <;> decide

theorem Phase.code_lt (p : Phase) : p.code < 2 ^ 2 := by cases p <;> decide

/-- The level of a percentage is within the resolution. -/
theorem level_le_pwmRes (c : Config) {p : Nat} (h : p ≤ 100) : level c p ≤ c.pwmRes :=
  calc level c p ≤ level c 100 := level_mono c h
    _ = c.pwmRes := Nat.mul_div_cancel _ (by decide)

/-- A compare level within the resolution fits its register, at the default resolution (11 bits, log 6)
and at every other. -/
theorem lt_two_pow_ccWidth {c : Config} {l : Nat} (h : l ≤ c.pwmRes) : l < 2 ^ c.ccWidth := by
  unfold Config.ccWidth
  split
  case isTrue hres => exact h.trans_lt (hres ▸ by decide)
  case isFalse => exact lt_two_pow_bitsFor h

/-- HWC is in the range of R22: it counts from HOLD_TICKS in HOLD_WAIT and is 0 elsewhere. -/
theorem hwc_le_holdTicks {s : State} (h : I5 s) : s.hwc ≤ s.cfg.holdTicks := by
  obtain ⟨-, hwait, helse, -⟩ := h
  by_cases hp : s.phase = .holdWait
  · exact (hwait.mp hp).2
  · simp [helse hp]

/-- Under I3 the compare levels are in the range of R22, when every legal duty value is a percentage. -/
theorem cc_le_pwmRes {s : State} (h : I3 s) (hmax : s.cfg.dutyMax ≤ 100) : ∀ l ∈ s.cc, l ≤ s.cfg.pwmRes := by
  obtain ⟨-, p, ⟨-, hp, -⟩, hcc⟩ := (I3_iff s).mp h
  exact fun l hl => hcc l hl ▸ level_le_pwmRes s.cfg (hp.trans hmax)

/-- Settles O40: each register is in the range its width is made for, by the invariant that names it. -/
theorem registersFitTheirWidthsInLegalStates : Obligations.RegistersFitTheirWidthsInLegalStates := by
  refine ⟨?_, by decide⟩
  rintro s ⟨-, ⟨hduty, hrem, hq⟩, -, h3, ⟨-, hdbp, hdbr⟩, h5, h6⟩ hmax
  exact ⟨s.pwr.code_lt, lt_two_pow_bitsFor hduty.2.1, lt_two_pow_bitsFor hrem.2.1, s.phase.code_lt,
    lt_two_pow_bitsFor (Nat.le_sub_one_of_lt hdbp), lt_two_pow_bitsFor (Nat.le_sub_one_of_lt hdbr),
    lt_two_pow_bitsFor (hwc_le_holdTicks h5), lt_two_pow_bitsFor h6,
    fun l hl => lt_two_pow_ccWidth (cc_le_pwmRes h3 hmax l hl),
    fun x hx => lt_two_pow_bitsFor (hq x hx).2.1⟩

end Sys2Proof.Machine
end

section
/-! PROOFS. The statements of 10_state.md: who writes which register (R22 to R33), the invariants (R34), the
configuration (R37), reset (R36) and the observation port (R33). -/

namespace Sys2Proof.Machine

/-! #### The step -/

/-- Everything a step can do when it goes on: nothing without a pending word, else the next word's effect. -/
theorem step_next_cases {s t : State} (h : step s = .next t) :
    (s.stim = [] ∧ t = s) ∨
    ∃ w ws i, s.stim = w :: ws ∧ decode w = some i ∧ exec i (s.setStim ws) = .next t := by
  cases hs : s.stim with
  | nil =>
    rw [step_nil hs] at h
    exact .inl ⟨rfl, (Host.Outcome.next.inj h).symm⟩
  | cons w ws =>
    cases hd : decode w with
    | none => simp [step_cons hs, stepWord, hd] at h
    | some i => exact .inr ⟨w, ws, i, rfl, hd, step_of_decode hs hd ▸ h⟩

/-! #### What a word does to PWR, REM, Q and the outputs -/

/-- `t` is `s` after a PRESSED verdict in TEST that turns ON (R142, R146). -/
def TurnsOn (s t : State) : Prop :=
  s.phase = .test ∧ s.dbp + 1 = s.cfg.dbTh ∧ s.pwr = .off ∧
  t = { s with
    pwr := .on
    duty := if s.rem = 0 then s.cfg.restoreDefault else s.rem
    cc := List.replicate s.cfg.nCh (level s.cfg (if s.rem = 0 then s.cfg.restoreDefault else s.rem))
    phase := .holdPoll, dbp := 0, dbr := 0 }

/-- `t` is `s` after a PRESSED verdict in TEST that turns OFF (R142, R147). -/
def TurnsOff (s t : State) : Prop :=
  s.phase = .test ∧ s.dbp + 1 = s.cfg.dbTh ∧ s.pwr = .on ∧
  t = { s with
    pwr := .off, duty := 0, rem := s.duty, cc := List.replicate s.cfg.nCh 0
    phase := .holdPoll, dbp := 0, dbr := 0 }

/-- `t` is `s` after a RELEASED verdict that drains an entry (R144, R148). -/
def Drains (s t : State) : Prop :=
  Polling s ∧ s.dbr + 1 = s.cfg.dbTh ∧ s.pwr = .on ∧
  ∃ x rest, s.q = x :: rest ∧
    t = { s with
      duty := x, q := rest, cc := List.replicate s.cfg.nCh (level s.cfg x)
      phase := .test, dbp := 0, dbr := 0 }

/-- `t` is `s` after a sample that neither toggles nor drains: at most PHASE and the counters move, in TEST
only the debounce counters, in HOLD_WAIT these not (R32). -/
structure MovesOnlyCounters (s t : State) : Prop where
  cfg : t.cfg = s.cfg
  pwr : t.pwr = s.pwr
  duty : t.duty = s.duty
  rem : t.rem = s.rem
  q : t.q = s.q
  cc : t.cc = s.cc
  test : s.phase = .test → t.phase = .test ∧ t.hwc = s.hwc
  holdWait : s.phase = .holdWait → t.dbp = s.dbp ∧ t.dbr = s.dbr

/-- The cases of the rule of SMP by what they do to the registers other than PHASE and the counters. -/
theorem smpRule_effect_cases (r : Bool) {s t : State} (hi : Inv s) (h : smpRule r s = .next t) :
    (r = true ∧ TurnsOn s t) ∨ (r = true ∧ TurnsOff s t) ∨ (r = false ∧ Drains s t) ∨
    MovesOnlyCounters s t := by
  obtain ⟨hp, ho, hr, hd, ht⟩ | ⟨hp, ho, hr, hd, ht⟩ | ⟨hp, -, -, hheld⟩ |
    ⟨hp, hr, hd, ⟨x, rest, ho, hq, ht⟩ | ⟨-, rfl⟩⟩ | ⟨hp, -, -, rfl⟩ | ⟨hp, -, -, rfl⟩ | ⟨hp, hticked⟩ :=
    smpRule_cases r hi h
  · exact .inl ⟨hr, hp, hd, ho, ht⟩
  · exact .inr (.inl ⟨hr, hp, hd, ho, ht⟩)
  · obtain ⟨-, rfl⟩ | ⟨-, rfl⟩ := hheld <;>
      exact .inr (.inr (.inr ⟨rfl, rfl, rfl, rfl, rfl, rfl, by simp [hp], by simp [hp]⟩))
  · exact .inr (.inr (.inl ⟨hr, hp, hd, ho, x, rest, hq, ht⟩))
  · exact .inr (.inr (.inr ⟨rfl, rfl, rfl, rfl, rfl, rfl, fun _ => ⟨rfl, rfl⟩, fun hw => by simp [hw] at hp⟩))
  · exact .inr (.inr (.inr ⟨rfl, rfl, rfl, rfl, rfl, rfl, fun htest => ⟨htest, rfl⟩,
      fun hw => by simp [hw] at hp⟩))
  · exact .inr (.inr (.inr ⟨rfl, rfl, rfl, rfl, rfl, rfl, fun htest => ⟨htest, rfl⟩,
      fun hw => by simp [hw] at hp⟩))
  · obtain ⟨-, rfl⟩ | ⟨-, rfl⟩ := hticked <;>
      exact .inr (.inr (.inr ⟨rfl, rfl, rfl, rfl, rfl, rfl, by simp [hp], fun _ => ⟨rfl, rfl⟩⟩))

/-- ENC writes DUTY and Q alone, and never shortens the queue (R121). -/
theorem encRule_frame (b : Bool) (s : State) :
    ∃ v q, s.q.length ≤ q.length ∧ encRule b s = { s with duty := v, q := q } := by
  have grows (v : Nat) : s.q.length ≤ (if s.q.length < s.cfg.qCap then s.q ++ [v] else s.q).length := by
    split <;> simp
  obtain h | ⟨-, -, h⟩ | ⟨-, -, h⟩ := encRule_cases b s
  · exact ⟨s.duty, s.q, le_rfl, h⟩
  · exact ⟨_, _, grows _, h.trans (publish_eq _ s)⟩
  · exact ⟨_, _, grows _, h.trans (publish_eq _ s)⟩

/-- The cases of an executed word by what they do to PWR, REM, Q and the outputs: RST, the two toggles, a
drain, and words that leave all but the queue, which they do not shorten. -/
theorem exec_effect_cases {i : Instr} {s t : State} (h : exec i s = .next t) :
    (i = .rst ∧ t = State.resetOf s.cfg s.stim) ∨
    (i = .smp true ∧ TurnsOn s t) ∨ (i = .smp true ∧ TurnsOff s t) ∨ (i = .smp false ∧ Drains s t) ∨
    (t.cfg = s.cfg ∧ t.pwr = s.pwr ∧ t.rem = s.rem ∧ t.cc = s.cc ∧ s.q.length ≤ t.q.length) := by
  obtain hrst | ⟨hi, ⟨rfl, rfl⟩ | ⟨b, rfl, rfl⟩ | ⟨r, rfl, hr⟩⟩ := exec_next_cases h
  · exact .inl hrst
  · exact .inr (.inr (.inr (.inr ⟨rfl, rfl, rfl, rfl, le_rfl⟩)))
  · obtain ⟨v, q, hq, he⟩ := encRule_frame b s
    rw [he]
    exact .inr (.inr (.inr (.inr ⟨rfl, rfl, rfl, rfl, hq⟩)))
  · obtain ⟨rfl, ht⟩ | ⟨rfl, ht⟩ | ⟨rfl, ht⟩ | ht := smpRule_effect_cases r hi hr
    · exact .inr (.inl ⟨rfl, ht⟩)
    · exact .inr (.inr (.inl ⟨rfl, ht⟩))
    · exact .inr (.inr (.inr (.inl ⟨rfl, ht⟩)))
    · exact .inr (.inr (.inr (.inr ⟨ht.cfg, ht.pwr, ht.rem, ht.cc, ht.q ▸ le_rfl⟩)))

/-- No word writes the configuration record (R37). -/
theorem exec_cfg {i : Instr} {s t : State} (h : exec i s = .next t) : t.cfg = s.cfg := by
  obtain ⟨-, rfl⟩ | ⟨-, -, -, -, rfl⟩ | ⟨-, -, -, -, rfl⟩ | ⟨-, -, -, -, x, rest, -, rfl⟩ | ⟨hcfg, -⟩ :=
    exec_effect_cases h
  · rfl
  · rfl
  · rfl
  · rfl
  · exact hcfg

/-- Settles O9: no word's effect writes the record, and taking the word from the stream does not either. -/
theorem configurationNeverChanges : Obligations.ConfigurationNeverChanges := by
  intro s t h
  obtain ⟨-, rfl⟩ | ⟨w, ws, i, -, -, hx⟩ := step_next_cases h
  · rfl
  · exact (exec_cfg hx).trans (s.setStim_cfg ws)

/-- Settles O30: each of the four things a sample can do stays in its row of the write matrix. -/
theorem sampleWritesOnlyItsRowOfTheMatrix : Obligations.SampleWritesOnlyItsRowOfTheMatrix := by
  intro r s t h
  refine ⟨exec_cfg h, exec_stim h, ?_⟩
  obtain ⟨hi, hr⟩ := guarded_next h
  obtain ⟨rfl, hp, hd, ho, rfl⟩ | ⟨rfl, hp, hd, ho, rfl⟩ | ⟨rfl, hp, hd, ho, x, rest, hq, rfl⟩ | ht :=
    smpRule_effect_cases r hi hr
  · simp [hp, hd]
  · simp [hp, hd, ho]
  · obtain hp | hp := hp <;> simp [hp, hd, ho, hq]
  · exact ⟨fun hw => ⟨ht.pwr, ht.duty, ht.rem, (ht.holdWait hw).1, (ht.holdWait hw).2, ht.q, ht.cc⟩,
      fun _ => ⟨ht.pwr, ht.rem, fun _ => ⟨ht.duty, ht.q, ht.cc⟩⟩,
      fun hp => ⟨(ht.test hp).2, fun _ => ⟨ht.q, fun _ => ht.rem⟩,
        fun _ => ⟨ht.pwr, ht.rem, (ht.test hp).1.trans hp.symm⟩, fun _ _ => ⟨ht.duty, ht.q, ht.cc⟩⟩⟩

/-- Settles O31: of the effects of a word only RST and the two toggles write PWR. -/
theorem powerChangesOnlyByResetOrPressInTest : Obligations.PowerChangesOnlyByResetOrPressInTest := by
  intro i s t h hne
  obtain ⟨hrst, -⟩ | ⟨hs, hp, hd, -, rfl⟩ | ⟨hs, hp, hd, -, rfl⟩ | ⟨-, -, -, -, x, rest, -, rfl⟩ |
    ⟨-, hpwr, -⟩ := exec_effect_cases h
  · exact .inl hrst
  · exact .inr ⟨hs, hp, hd, rfl⟩
  · exact .inr ⟨hs, hp, hd, rfl⟩
  · exact absurd rfl hne
  · exact absurd hpwr hne

/-- Settles O32: of the effects of a word only RST and turning OFF write REM. -/
theorem rememberedBrightnessChangesOnlyWhenTurningOff :
    Obligations.RememberedBrightnessChangesOnlyWhenTurningOff := by
  intro i s t h hne
  obtain ⟨hrst, -⟩ | ⟨-, -, -, -, rfl⟩ | ⟨hs, hp, -, ho, rfl⟩ | ⟨-, -, -, -, x, rest, -, rfl⟩ |
    ⟨-, -, hrem, -⟩ := exec_effect_cases h
  · exact .inl hrst
  · exact absurd rfl hne
  · exact .inr ⟨hs, hp, ho, rfl, rfl⟩
  · exact absurd rfl hne
  · exact absurd hrem hne

/-- Settles O33: RST and turning OFF apply the duty value 0, turning ON and a drain the new DUTY. -/
theorem outputsChangeOnlyTogetherAndOnlyByVerdictOrReset :
    Obligations.OutputsChangeOnlyTogetherAndOnlyByVerdictOrReset := by
  intro i s t h hne
  obtain ⟨hrst, rfl⟩ | ⟨hs, hp, hd, -, rfl⟩ | ⟨hs, hp, hd, -, rfl⟩ | ⟨hs, hp, hd, ho, x, rest, -, rfl⟩ |
    ⟨-, -, -, hcc, -⟩ := exec_effect_cases h
  · exact ⟨.inl hrst, 0, by simp⟩
  · exact ⟨.inr (.inl ⟨hs, hp, hd⟩), _, rfl⟩
  · exact ⟨.inr (.inl ⟨hs, hp, hd⟩), 0, by simp⟩
  · exact ⟨.inr (.inr ⟨hs, hp, hd, ho⟩), x, rfl⟩
  · exact absurd hcc hne

/-- Settles O36: the premises of I7 leave only turning ON and a drain, and both apply the new DUTY. -/
theorem outputsShowDutyAfterTurningOnAndAfterADrain :
    Obligations.OutputsShowDutyAfterTurningOnAndAfterADrain := by
  intro i s t h hpre
  obtain ⟨rfl, rfl⟩ | ⟨-, -, -, -, rfl⟩ | ⟨-, -, -, ho, rfl⟩ | ⟨-, -, -, ho, x, rest, -, rfl⟩ |
    ⟨-, hpwr, -, -, hq⟩ := exec_effect_cases h
  · simp at hpre
  · exact ⟨rfl, rfl⟩
  · simp at hpre
  · exact ⟨ho, rfl⟩
  · rw [hpwr] at hpre
    obtain ⟨hoff, hon⟩ | ⟨-, hlt⟩ := hpre
    · simp [hoff] at hon
    · omega

/-! #### The invariants -/

theorem legalDuty_zero {c : Config} (hc : c.WellFormed) : c.LegalDuty 0 := by
  obtain ⟨hmin, -⟩ := hc
  exact ⟨hmin.le, Nat.zero_le _, Nat.zero_mod _⟩

theorem legalDuty_dutyMax {c : Config} (hc : c.WellFormed) : c.LegalDuty c.dutyMax := by
  obtain ⟨-, hlt, -, hmod, -⟩ := hc
  exact ⟨hlt.le, le_rfl, hmod⟩

/-- A clockwise step from a legal duty value, clamped to DUTY_MAX, is legal (R122). -/
theorem legalDuty_stepUp {c : Config} {p : Nat} (hc : c.WellFormed) (hp : c.LegalDuty p) :
    c.LegalDuty (min (p + c.dutyStep) c.dutyMax) := by
  obtain ⟨hmin, -, hmod⟩ := hp
  by_cases h : p + c.dutyStep ≤ c.dutyMax
  · rw [Nat.min_eq_left h]
    exact ⟨hmin.trans (Nat.le_add_right _ _), h, (Nat.add_mod_right _ _).trans hmod⟩
  · rw [Nat.min_eq_right (Nat.le_of_not_le h)]
    exact legalDuty_dutyMax hc

/-- A counter-clockwise step from a legal duty value, clamped to DUTY_MIN, is legal (R123). -/
theorem legalDuty_stepDown {c : Config} {p : Nat} (hc : c.WellFormed) (hp : c.LegalDuty p) :
    c.LegalDuty (max (p - c.dutyStep) c.dutyMin) := by
  have hzero : c.dutyMin = 0 := hc.1
  obtain ⟨-, hmax, hmod⟩ := hp
  rw [hzero, Nat.max_zero]
  by_cases h : c.dutyStep ≤ p
  · exact ⟨hzero ▸ Nat.zero_le _, (Nat.sub_le _ _).trans hmax, (Nat.mod_eq_sub_mod h).symm.trans hmod⟩
  · rw [Nat.sub_eq_zero_of_le (Nat.le_of_not_le h)]
    exact legalDuty_zero hc

/-- Publishing a legal value keeps the invariants: only I1 and I6 speak of DUTY and Q (R124). -/
theorem Inv_publish {s : State} {v : Nat} (hi : Inv s) (hv : s.cfg.LegalDuty v) : Inv (publish v s) := by
  obtain ⟨⟨-, hrem, hq⟩, h2, h3, h4, h5, h6⟩ := hi
  rw [publish_eq]
  refine ⟨⟨hv, hrem, ?_⟩, h2, h3, h4, h5, ?_⟩
  · intro x hx
    split at hx
    · obtain hx | hx := List.mem_append.mp hx
      · exact hq x hx
      · exact List.mem_singleton.mp hx ▸ hv
    · exact hq x hx
  · show (if s.q.length < s.cfg.qCap then s.q ++ [v] else s.q).length ≤ s.cfg.qCap
    split
    case isTrue hroom => simpa using hroom
    case isFalse => exact h6

/-- ENC keeps the invariants (R120 to R125). -/
theorem Inv_encRule {s : State} (b : Bool) (hc : s.cfg.WellFormed) (hi : Inv s) : Inv (encRule b s) := by
  have hd : s.cfg.LegalDuty s.duty := hi.1.1
  obtain h | ⟨-, -, h⟩ | ⟨-, -, h⟩ := encRule_cases b s
  · rwa [h]
  · exact h ▸ Inv_publish hi (legalDuty_stepUp hc hd)
  · exact h ▸ Inv_publish hi (legalDuty_stepDown hc hd)

theorem I3_of_replicate {s : State} {p : Nat} (hp : s.cfg.LegalDuty p)
    (h : s.cc = List.replicate s.cfg.nCh (level s.cfg p)) : I3 s :=
  (I3_iff_replicate s).mpr ⟨p, hp, h⟩

/-- Outputs all at 0 meet I2 and I3: 0 is the level of the legal duty value 0. -/
theorem I2_I3_of_replicate_zero {s : State} (hc : s.cfg.WellFormed)
    (h : s.cc = List.replicate s.cfg.nCh 0) : I2 s ∧ I3 s :=
  ⟨fun _ l hl => List.eq_of_mem_replicate (h ▸ hl), I3_of_replicate (legalDuty_zero hc) (by simpa using h)⟩

/-- In a polling phase I5 asks for HWC = 0 alone. -/
theorem I5_of_polling {s : State} (hp : Polling s) (hw : s.hwc = 0) : I5 s := by
  obtain hp | hp := hp <;> simp [I5, hp, hw]

/-- What I5 asks for in HOLD_WAIT. -/
theorem I5_of_holdWait {s : State} (hp : s.phase = .holdWait) (hpos : 1 ≤ s.hwc)
    (hle : s.hwc ≤ s.cfg.holdTicks) (hb : s.dbp = 0) (hr : s.dbr = 0) : I5 s := by
  simp [I5, hp, hpos, hle, hb, hr]

/-- The reset state meets the invariants (R36). -/
theorem Inv_resetOf {c : Config} (ws : List Word) (hc : c.WellFormed) : Inv (State.resetOf c ws) := by
  obtain ⟨h2, h3⟩ := I2_I3_of_replicate_zero (s := State.resetOf c ws) hc rfl
  have hzero := legalDuty_zero hc
  obtain ⟨-, -, -, -, -, hrem, hth, -, -⟩ := hc
  exact ⟨⟨hzero, hrem, by simp⟩, h2, h3, ⟨.inl rfl, hth, hth⟩, I5_of_polling (.inl rfl) rfl,
    Nat.zero_le _⟩

/-- The value that turning ON puts into DUTY is legal (R146). -/
theorem legalDuty_restored {s : State} (hc : s.cfg.WellFormed) (hrem : s.cfg.LegalDuty s.rem) :
    s.cfg.LegalDuty (if s.rem = 0 then s.cfg.restoreDefault else s.rem) := by
  obtain ⟨-, -, -, -, hdef, -⟩ := hc
  split
  · exact hdef
  · exact hrem

/-- SMP keeps the invariants, whatever its phase and verdict (R103). -/
theorem Inv_smpRule {r : Bool} {s t : State} (hc : s.cfg.WellFormed) (hi : Inv s)
    (h : smpRule r s = .next t) : Inv t := by
  have hcases := smpRule_cases r hi h
  obtain ⟨⟨hduty, hrem, hq⟩, h2, h3, ⟨h4, hdbp, hdbr⟩, ⟨h5, hwait, helse, hzero⟩, h6⟩ := hi
  have hth : 0 < s.cfg.dbTh := by omega
  have hwc (hp : Polling s) : s.hwc = 0 := helse (by obtain hp | hp := hp <;> simp [hp])
  obtain ⟨hp, -, -, -, rfl⟩ | ⟨hp, -, -, -, rfl⟩ | ⟨hp, -, -, hheld⟩ | ⟨hp, -, -, hended⟩ |
    ⟨hp, -, hd, rfl⟩ | ⟨hp, -, hd, rfl⟩ | ⟨hp, hticked⟩ := hcases
  · -- turning ON
    have hv := legalDuty_restored hc hrem
    exact ⟨⟨hv, hrem, hq⟩, nofun, I3_of_replicate hv rfl, ⟨.inl rfl, hth, hth⟩,
      I5_of_polling (.inr rfl) (hwc (.inl hp)), h6⟩
  · -- turning OFF
    obtain ⟨h2, h3⟩ := I2_I3_of_replicate_zero (s := { s with cc := List.replicate s.cfg.nCh 0 }) hc rfl
    exact ⟨⟨legalDuty_zero hc, hduty, hq⟩, fun _ => List.forall_mem_replicate.mpr (.inr rfl), h3,
      ⟨.inl rfl, hth, hth⟩, I5_of_polling (.inr rfl) (hwc (.inl hp)), h6⟩
  · -- a PRESSED verdict of a poll, without and with a hold wait
    obtain ⟨-, rfl⟩ | ⟨hk, rfl⟩ := hheld
    · exact ⟨⟨hduty, hrem, hq⟩, h2, h3, ⟨.inl rfl, hth, hth⟩, I5_of_polling (.inr hp) (hwc (.inr hp)), h6⟩
    · exact ⟨⟨hduty, hrem, hq⟩, h2, h3, ⟨.inl rfl, hth, hth⟩,
        I5_of_holdWait rfl (Nat.one_le_iff_ne_zero.mpr hk) le_rfl rfl rfl, h6⟩
  · -- the end of an iteration, with and without a drain
    obtain ⟨x, rest, ho, he, rfl⟩ | ⟨-, rfl⟩ := hended
    · rw [he] at hq
      obtain ⟨hx, hrest⟩ := List.forall_mem_cons.mp hq
      have hlen : rest.length + 1 ≤ s.cfg.qCap := by simpa [State.qlen, he] using h6
      exact ⟨⟨hx, hrem, hrest⟩, fun hoff => by simp [ho] at hoff, I3_of_replicate hx rfl,
        ⟨.inl rfl, hth, hth⟩, I5_of_polling (.inl rfl) (hwc hp), Nat.le_of_succ_le hlen⟩
    · exact ⟨⟨hduty, hrem, hq⟩, h2, h3, ⟨.inl rfl, hth, hth⟩, I5_of_polling (.inl rfl) (hwc hp), h6⟩
  · -- a pressed sample without a verdict
    exact ⟨⟨hduty, hrem, hq⟩, h2, h3, ⟨.inr rfl, lt_of_le_of_ne hdbp hd, hth⟩,
      I5_of_polling hp (hwc hp), h6⟩
  · -- a released sample without a verdict
    exact ⟨⟨hduty, hrem, hq⟩, h2, h3, ⟨.inl rfl, hth, lt_of_le_of_ne hdbr hd⟩,
      I5_of_polling hp (hwc hp), h6⟩
  · -- the last tick of a hold wait, and an earlier one
    obtain ⟨-, rfl⟩ | ⟨hk, rfl⟩ := hticked
    · exact ⟨⟨hduty, hrem, hq⟩, h2, h3, ⟨h4, hdbp, hdbr⟩, I5_of_polling (.inr rfl) rfl, h6⟩
    · obtain ⟨hb, hr⟩ := hzero hp
      have hle : s.hwc - 1 ≤ s.cfg.holdTicks := (Nat.sub_le _ _).trans (hwait.mp hp).2
      exact ⟨⟨hduty, hrem, hq⟩, h2, h3, ⟨h4, hdbp, hdbr⟩,
        I5_of_holdWait hp (Nat.one_le_iff_ne_zero.mpr hk) hle hb hr, h6⟩

/-- Settles O44: RST ends in the reset state; every other word is checked first, so its rule starts from a
state that meets R34, and keeps it. -/
theorem acceptedWordLeavesALegalState : Obligations.AcceptedWordLeavesALegalState := by
  intro i s t hc h
  refine ⟨exec_cfg h ▸ hc, ?_⟩
  obtain ⟨-, rfl⟩ | ⟨hi, ⟨-, rfl⟩ | ⟨b, -, rfl⟩ | ⟨r, -, hr⟩⟩ := exec_next_cases h
  · exact Inv_resetOf s.stim hc
  · exact hi
  · exact Inv_encRule b hc hi
  · exact Inv_smpRule hc hi hr

/-- Settles O43: a step without a word keeps the state, and a word that goes on leaves a legal one (O44). -/
theorem stepKeepsTheInvariants : Obligations.StepKeepsTheInvariants := by
  intro s t hs h
  obtain ⟨-, rfl⟩ | ⟨w, ws, i, -, -, hx⟩ := step_next_cases h
  · exact hs
  · exact acceptedWordLeavesALegalState i (s.setStim ws) t hs.1 hx

/-! #### Reset and the observation port -/

/-- Settles O12: each register of `State.reset` is its reset value at the default parameters. -/
theorem powerOnValuesAreThoseOfTheSpec : Obligations.PowerOnValuesAreThoseOfTheSpec :=
  ⟨rfl, rfl, rfl, rfl, rfl, rfl, rfl, rfl, rfl, rfl, rfl⟩

/-- Settles O13: the default parameters meet R6, and under R6 the reset state meets I1 to I6. -/
theorem resetMeetsTheInvariants : Obligations.ResetMeetsTheInvariants := by
  have hdefault : Config.default.WellFormed := by decide
  exact ⟨⟨hdefault, Inv_resetOf [] hdefault⟩, fun _ ws hc => Inv_resetOf ws hc⟩

@[simp] theorem State.observe_pwr (s : State) : s.observe 0 = some s.pwr.code := rfl

@[simp] theorem State.observe_phase (s : State) : s.observe 3 = some s.phase.code := rfl

/-- The channels stand at the indices from 8 on (R22). -/
theorem State.observe_channel (s : State) (i : Nat) : s.observe (8 + i) = s.cc[i]? := by
  rw [Nat.add_comm]; rfl

/-- The trace line holds the readings of the observation port in index order (R33, R51). -/
theorem State.trace_getElem? (s : State) (i : Nat) : s.trace.1[i]? = s.observe i := by
  match i with
  | 0 | 1 | 2 | 3 | 4 | 5 | 6 | 7 | _ + 8 => rfl

theorem State.trace_length (s : State) : s.trace.1.length = 8 + s.cc.length :=
  List.length_append

/-- Settles O41: the port reads the fields by index, and the trace line is its readings. -/
theorem observationPortReadsRegistersByIndex : Obligations.ObservationPortReadsRegistersByIndex := by
  intro s
  refine ⟨?pwrOff, ?pwrOn, rfl, rfl, ?test, ?holdPoll, ?holdWait, ?reserved, rfl, rfl, rfl, rfl,
    fun i l h => (s.observe_channel i).trans h,
    fun i h => (s.observe_channel i).trans (List.getElem?_eq_none h),
    fun h3 => s.trace_length.trans (congrArg _ h3.1), s.trace_getElem?, rfl⟩
  case pwrOff | pwrOn => intro h; simp [h, Power.code]
  case test | holdPoll | holdWait | reserved => intro h; simp [h, Phase.code]

end Sys2Proof.Machine
end

section
/-! PROOFS. The statements of 20_memory.md: the order of the stream (R57) and the event queue (R52 to R55). -/

namespace Sys2Proof.Machine

/-- Settles O8: the step takes the first word off the stream, and no word's effect writes the rest. -/
theorem stepConsumesOneWordInOrder : Obligations.StepConsumesOneWordInOrder := by
  intro s t h
  obtain ⟨hs, rfl⟩ | ⟨w, ws, i, hs, -, hx⟩ := step_next_cases h
  · simp [hs]
  · calc t.stim = (s.setStim ws).stim := exec_stim hx
      _ = s.stim.tail := by simp [hs]

/-- Publishing leaves the queue, when full, or appends the new DUTY at its tail (R53). -/
theorem publish_queue_cases (v : Nat) (s : State) :
    (publish v s).q = s.q ∨
    (s.q.length < s.cfg.qCap ∧ (publish v s).q = s.q ++ [(publish v s).duty]) := by
  rw [publish_eq]
  by_cases hroom : s.q.length < s.cfg.qCap
  · exact .inr ⟨hroom, if_pos hroom⟩
  · exact .inl (if_neg hroom)

/-- ENC leaves the queue or appends the new DUTY at its tail (R122, R123). -/
theorem encRule_queue_cases (b : Bool) (s : State) :
    (encRule b s).q = s.q ∨
    (s.q.length < s.cfg.qCap ∧ (encRule b s).q = s.q ++ [(encRule b s).duty]) := by
  obtain h | ⟨-, -, h⟩ | ⟨-, -, h⟩ := encRule_cases b s
  · exact .inl (congrArg State.q h)
  · exact h ▸ publish_queue_cases _ s
  · exact h ▸ publish_queue_cases _ s

/-- SMP leaves the queue, or its RELEASED verdict while ON takes the head into DUTY (R54, R148). -/
theorem smpRule_queue_cases (r : Bool) {s t : State} (hi : Inv s) (h : smpRule r s = .next t) :
    t.q = s.q ∨ (r = false ∧ s.pwr = .on ∧ Polling s ∧ s.q = t.duty :: t.q) := by
  obtain ⟨-, -, -, -, rfl⟩ | ⟨-, -, -, -, rfl⟩ | ⟨hr, hp, -, ho, x, rest, hq, rfl⟩ | ht :=
    smpRule_effect_cases r hi h
  · exact .inl rfl
  · exact .inl rfl
  · exact .inr ⟨hr, ho, hp, hq⟩
  · exact .inl ht.q

/-- Settles O34: NOP leaves the queue, ENC may append, a RELEASED verdict while ON takes the head, and RST
empties it. -/
theorem queueIsFirstInFirstOut : Obligations.QueueIsFirstInFirstOut := by
  intro i s t h
  obtain ⟨hrst, rfl⟩ | ⟨hi, ⟨-, rfl⟩ | ⟨b, hb, rfl⟩ | ⟨r, rfl, hr⟩⟩ := exec_next_cases h
  · exact .inr (.inr (.inr ⟨hrst, rfl⟩))
  · exact .inl rfl
  · obtain hq | ⟨hroom, hq⟩ := encRule_queue_cases b s
    · exact .inl hq
    · exact .inr (.inl ⟨b, hb, hroom, hq⟩)
  · obtain hq | ⟨rfl, ho, hp, hq⟩ := smpRule_queue_cases r hi hr
    · exact .inl hq
    · exact .inr (.inr (.inl ⟨rfl, ho, hp, hq⟩))

end Sys2Proof.Machine
end

section
/-! PROOFS. The statements of 30_encoding.md: the decoder and its encoder (R70 to R74), the words of the wire
interface (R75), the text of base forms (R76) and CLICK (R77). -/

namespace Sys2Proof.Machine

/-! #### The decoder is the inverse of the encoder -/

/-- A word is what the mask of an operand row keeps, with the operand A in bit 0 (R70, R71). -/
theorem masked_or_operand (w : Word) : w &&& 0xFE#8 ||| (BitVec.ofBool (fieldA w)).setWidth 8 = w :=
  calc w &&& 0xFE#8 ||| (BitVec.ofBool (fieldA w)).setWidth 8
      = w &&& 0xFE#8 ||| w &&& 1#8 := by rw [BitVec.and_one_eq_setWidth_ofBool_getLsbD]; rfl
    _ = w &&& (0xFE#8 ||| 1#8) := BitVec.and_or_distrib_left.symm
    _ = w := BitVec.and_allOnes

theorem matchOf_or_operand_smp (r : Bool) :
    matchOf (.smp r) ||| (BitVec.ofBool r).setWidth 8 = encode (.smp r) := by cases r <;> decide

theorem matchOf_or_operand_enc (b : Bool) :
    matchOf (.enc b) ||| (BitVec.ofBool b).setWidth 8 = encode (.enc b) := by cases b <;> decide

/-- A word that decodes is the word of the instruction it decodes to. -/
theorem encode_of_decode {w : Word} {i : Instr} (h : decode w = some i) : encode i = w := by
  unfold decode at h
  split_ifs at h with hnop hsmp henc hrst <;> cases h
  · exact hnop.symm
  · rw [← matchOf_or_operand_smp, matchOf, ← hsmp, masked_or_operand]
  · rw [← matchOf_or_operand_enc, matchOf, ← henc, masked_or_operand]
  · exact hrst.symm

theorem decode_eq_some_iff (w : Word) (i : Instr) : decode w = some i ↔ w = encode i :=
  ⟨fun h => (encode_of_decode h).symm, fun h => h ▸ Laws.decode_encode i⟩

theorem encode_injective : Function.Injective encode := fun i j h =>
  Option.some.inj (by rw [← Laws.decode_encode i, h, Laws.decode_encode])

/-- Settles O1: word by word, decoding to an instruction is being its word. -/
theorem streamEncodingLosesNothing : Obligations.StreamEncodingLosesNothing := by
  intro is ws
  induction ws generalizing is with
  | nil => cases is <;> simp
  | cons w ws ih =>
    cases is with
    | nil => simp [List.mapM_cons, Option.bind_eq_some_iff]
    | cons i is => simp [List.mapM_cons, Option.bind_eq_some_iff, decode_eq_some_iff, ih]

/-- The six legal words are the words of the instructions (R71, R73). -/
theorem mem_legalWords_iff (w : Word) :
    w ∈ [0x00#8, 0x10#8, 0x11#8, 0x20#8, 0x21#8, 0xF0#8] ↔ ∃ i, w = encode i := by
  constructor
  · intro h
    have hwords : [0x00#8, 0x10#8, 0x11#8, 0x20#8, 0x21#8, 0xF0#8] =
        [Instr.nop, .smp false, .smp true, .enc false, .enc true, .rst].map encode := by decide
    rw [hwords] at h
    obtain ⟨i, -, rfl⟩ := List.mem_map.mp h
    exact ⟨i, rfl⟩
  · rintro ⟨i, rfl⟩
    cases i with
    | nop => decide
    | smp r => cases r <;> decide
    | enc b => cases b <;> decide
    | rst => decide

/-- Of the 256 byte values 250 are reserved (R73), counted in four quarters. -/
theorem length_reservedBytes :
    ((List.range 256).filter fun n => decode (BitVec.ofNat 8 n) = none).length = 250 := by
  rw [show 256 = 64 + 64 + 64 + 64 from rfl]
  simp only [List.range_add, List.filter_append, List.length_append]
  decide

/-- Settles O2: the decoder answers nothing exactly for the words of no instruction. -/
theorem reservedWordsAreAllButSix : Obligations.ReservedWordsAreAllButSix := by
  refine ⟨fun w => ?_, length_reservedBytes⟩
  simp only [mem_legalWords_iff, Option.eq_none_iff_forall_ne_some, ne_eq, decode_eq_some_iff, not_exists]

/-- Settles O3: each word of the table is the word of its row's instruction, and decodes back to it. -/
theorem tableWordsDecodeToTheirRows : Obligations.TableWordsDecodeToTheirRows :=
  ⟨Laws.decode_encode .nop, Laws.decode_encode (.smp false), Laws.decode_encode (.smp true),
    Laws.decode_encode (.enc false), Laws.decode_encode (.enc true), Laws.decode_encode .rst⟩

/-! #### The text of base forms -/

/-- A comment begins only at a `;`. -/
theorem stripComment_append {text : List Char} (rest : List Char) (h : ';' ∉ text) :
    stripComment (text ++ rest) = text ++ stripComment rest := by
  induction text with
  | nil => rfl
  | cons ch text ih =>
    obtain ⟨hne, htext⟩ := List.ne_and_not_mem_of_not_mem_cons h
    simp [stripComment, hne.symm, ih htext]

/-- A space at the end of a line adds no word. -/
theorem tokensFrom_append_space (cur text : List Char) :
    tokensFrom cur (text ++ [' ']) = tokensFrom cur text := by
  induction text generalizing cur with
  | nil => simp [tokensFrom]
  | cons ch text ih => simp [tokensFrom, ih]

theorem semicolon_notMem_baseText (i : Instr) : ';' ∉ baseText i := by
  cases i with
  | nop => decide
  | smp r => cases r <;> decide
  | enc b => cases b <;> decide
  | rst => decide

theorem parseLine_baseText (i : Instr) : parseLine (baseText i) = some (.base i) := by
  cases i with
  | nop => decide
  | smp r => cases r <;> decide
  | enc b => cases b <;> decide
  | rst => decide

/-- A space and a comment after a line that holds no comment leave its reading. -/
theorem parseLine_append_comment {text : List Char} (comment : List Char) (h : ';' ∉ text) :
    parseLine (text ++ ' ' :: ';' :: comment) = parseLine text := by
  have hline : stripComment text = text := by simpa [stripComment] using stripComment_append [] h
  have hcut : stripComment (text ++ ' ' :: ';' :: comment) = text ++ [' '] := stripComment_append _ h
  rw [parseLine, parseLine, hline, hcut, tokensFrom_append_space]

/-- Settles O4: the base forms hold no `;`, so the comment and the space before it fall away. -/
theorem baseFormTextReadsBack : Obligations.BaseFormTextReadsBack := fun i comment =>
  ⟨parseLine_baseText i,
    (parseLine_append_comment comment (semicolon_notMem_baseText i)).trans (parseLine_baseText i), rfl⟩

/-! #### The words of the wire interface -/

/-- The words of any clocks, in any admitted order, are the encoding of some instructions. -/
theorem Wires.exists_instrs_of_admitsOver {porBefore : Bool} {xs : List Wires} {ws : List Word}
    (h : Wires.AdmitsOver porBefore xs ws) : ∃ is : List Instr, ws = is.map encode := by
  obtain ⟨is, his⟩ : ws ∈ Set.range (List.map encode) := by
    rw [Set.range_list_map]
    exact Wires.exists_encode_of_admitsOver h
  exact ⟨is, his.symm⟩

/-- The reference order is one of the admitted ones in every clock (R75). -/
theorem Wires.admitsOver_wordsOver (porBefore : Bool) (xs : List Wires) :
    Wires.AdmitsOver porBefore xs (Wires.wordsOver porBefore xs) := by
  induction xs generalizing porBefore with
  | nil => rfl
  | cons x xs ih => exact ⟨_, _, rfl, .refl _, ih x.por⟩

/-- How many events over the clocks `xs` the words of an instruction stand for (R75): no signal presents NOP,
and RST stands for a rise of `por`, whose level before the first clock is `porBefore`. -/
def Wires.eventCount (porBefore : Bool) (xs : List Wires) : Instr → Nat
  | .nop => 0
  | .smp r => (xs.map Wires.smpTick).count (some r)
  | .enc b => (xs.map Wires.encARise).count (some b)
  | .rst => ((porBefore :: xs.map Wires.por).zip (xs.map Wires.por)).count (false, true)

theorem Wires.eventCount_cons (porBefore : Bool) (x : Wires) (xs : List Wires) (i : Instr) :
    Wires.eventCount porBefore (x :: xs) i =
      Wires.eventCount porBefore [x] i + Wires.eventCount x.por xs i := by
  cases i with
  | nop => rfl
  | smp r => exact List.count_append (l₁ := [x.smpTick])
  | enc b => exact List.count_append (l₁ := [x.encARise])
  | rst => exact List.count_append (l₁ := [(porBefore, x.por)])

/-- The word that an event presents is counted with the event's operand. -/
theorem count_toList_map (o : Option Bool) {f : Bool → Instr} (hf : Function.Injective f) (a : Bool) :
    (o.map f).toList.count (f a) = [o].count (some a) := by
  cases o with
  | none => rfl
  | some v => simp [List.count_singleton, hf.eq_iff]

theorem count_toList_map_of_ne (o : Option Bool) {f : Bool → Instr} {i : Instr} (h : ∀ a, f a ≠ i) :
    (o.map f).toList.count i = 0 := by
  simp [List.count_eq_zero, h]

/-- In one clock each event presents its word once. -/
theorem Wires.count_words (porBefore : Bool) (x : Wires) (i : Instr) :
    (x.words porBefore).count (encode i) = Wires.eventCount porBefore [x] i := by
  rw [Wires.words_eq_map_encode, List.count_map_of_injective _ _ encode_injective,
    List.count_append, List.count_append]
  have hreset (h : i ≠ .rst) : (if x.por && !porBefore then [Instr.rst] else []).count i = 0 := by
    split <;> simp [h.symm]
  have hedge (h : ∀ b, .enc b ≠ i) : (x.encARise.map Instr.enc).toList.count i = 0 :=
    count_toList_map_of_ne x.encARise h
  have htick (h : ∀ r, .smp r ≠ i) : (x.smpTick.map Instr.smp).toList.count i = 0 :=
    count_toList_map_of_ne x.smpTick h
  cases i with
  | nop => rw [hreset nofun, hedge nofun, htick nofun]; rfl
  | smp r =>
    rw [hreset nofun, hedge nofun, Nat.zero_add]
    exact count_toList_map x.smpTick (fun _ _ => Instr.smp.inj) r
  | enc b =>
    rw [hreset nofun, htick nofun, Nat.zero_add]
    exact count_toList_map x.encARise (fun _ _ => Instr.enc.inj) b
  | rst =>
    rw [hedge nofun, htick nofun]
    show List.count _ _ = [(porBefore, x.por)].count (false, true)
    cases x.por <;> cases porBefore <;> rfl

/-- Over any clocks, in any admitted order, an instruction's word comes as often as its event. -/
theorem Wires.count_of_admitsOver {porBefore : Bool} {xs : List Wires} {ws : List Word}
    (h : Wires.AdmitsOver porBefore xs ws) (i : Instr) :
    ws.count (encode i) = Wires.eventCount porBefore xs i := by
  induction xs generalizing porBefore ws with
  | nil => rw [show ws = [] from h]; cases i <;> rfl
  | cons x xs ih =>
    obtain ⟨now, later, rfl, hnow, hlater⟩ := h
    rw [List.count_append, hnow.count_eq, Wires.count_words, ih hlater, ← Wires.eventCount_cons]

/-- Settles O56: the words of SMP, ENC and RST come as often as their events, and NOP's never. -/
theorem everyEventPresentsExactlyOneWord : Obligations.EveryEventPresentsExactlyOneWord := by
  intro porBefore xs ws h
  have hcount := Wires.count_of_admitsOver h
  refine ⟨hcount .rst, hcount (.smp false), hcount (.smp true), hcount (.enc false), hcount (.enc true),
    fun w hw => ?_⟩
  have hnop : (0x00#8 : Word) ∉ ws := List.count_eq_zero.mp (hcount .nop)
  obtain ⟨i, hi⟩ := Wires.exists_encode_of_admitsOver h w hw
  obtain rfl | hlegal := List.mem_cons.mp ((mem_legalWords_iff w).mpr ⟨i, hi.symm⟩)
  · exact absurd hw hnop
  · exact hlegal

/-! #### Runs from legal states -/

/-- In a state that meets R34 every word completes (R214). -/
theorem exec_completes {s : State} (i : Instr) (hi : Inv s) : ∃ t, exec i s = .next t := by
  cases i with
  | nop => exact ⟨s, exec_nop_of_inv hi⟩
  | smp r =>
    rw [exec_smp_of_inv hi]
    cases hp : s.phase with
    | test => exact ⟨_, smpRule_of_test r hp⟩
    | holdPoll => exact ⟨_, smpRule_of_holdPoll r hp⟩
    | holdWait => exact ⟨_, smpRule_of_holdWait r hp⟩
    | reserved =>
      obtain ⟨-, -, -, -, ⟨hphase, -⟩, -⟩ := hi
      exact absurd hp hphase
  | enc b => exact ⟨_, exec_enc_of_inv hi b⟩
  | rst => exact ⟨_, exec_rst_eq s⟩

/-- A stream of legal words runs from a legal state to its end and leaves a legal state (R34, R214). -/
theorem runOver_completes {s : State} (is : List Instr) (hs : Legal s) :
    ∃ t, runOver is s = .next t ∧ Legal t ∧ t.stim = [] := by
  induction is generalizing s with
  | nil => exact ⟨s.setStim [], runOver_nil s, hs, rfl⟩
  | cons i is ih =>
    obtain ⟨u, hu⟩ := exec_completes i hs.2
    rw [runOver_cons_of_next is hu]
    exact ih (acceptedWordLeavesALegalState i s u hs.1 hu)

theorem Legal_of_runOver {is : List Instr} {s t : State} (hs : Legal s) (h : runOver is s = .next t) :
    Legal t := by
  obtain ⟨u, hu, hlegal, -⟩ := runOver_completes is hs
  exact Host.Outcome.next.inj (hu.symm.trans h) ▸ hlegal

theorem runOver_append {is : List Instr} {s t : State} (js : List Instr) (h : runOver is s = .next t) :
    runOver (is ++ js) s = runOver js t := by
  have hrun := run_words_append (js.map encode) js.length h
  rwa [← List.map_append, ← List.length_append] at hrun

/-- Settles O42: clocks present words of instructions only, in whatever order, and a legal state runs
through those. -/
theorem simultaneousEventsRunInEveryOrder : Obligations.SimultaneousEventsRunInEveryOrder := by
  refine ⟨fun porBefore xs ws s h hs => ?_, Wires.admitsOver_wordsOver, fun b r => ?_⟩
  · obtain ⟨is, rfl⟩ := Wires.exists_instrs_of_admitsOver h
    obtain ⟨t, hrun, ht, -⟩ := runOver_completes is hs
    exact ⟨t, by rwa [List.length_map], ht⟩
  · exact (streamEncodingLosesNothing _ _).mpr (Wires.words_eq_map_encode _ _)

/-! #### CLICK -/

/-- The debounce counter that a sample `r` counts in (R27). -/
def State.runCount (r : Bool) (s : State) : Nat := if r then s.dbp else s.dbr

/-- The verdict of a completed run of samples `r` (R101). -/
def verdictOf (r : Bool) : Verdict := if r then .pressed else .released

/-- The state with both debounce counters at 0, as a verdict leaves them (R101). -/
def State.clearCounters (s : State) : State := { s with dbp := 0, dbr := 0 }

theorem State.clearCounters_of_zero {s : State} (hp : s.dbp = 0) (hr : s.dbr = 0) : s.clearCounters = s := by
  cases s; cases hp; cases hr; rfl

/-- A sample that completes a run gives its verdict. -/
theorem sample_verdict {r : Bool} {s : State} (onVerdict : Verdict → State → State)
    (h : s.runCount r + 1 = s.cfg.dbTh) :
    sample r onVerdict s = onVerdict (verdictOf r) s.clearCounters := by
  cases r with
  | true => exact sample_pressed onVerdict h
  | false => exact sample_released onVerdict h

/-- A sample that completes no run counts one more in its own counter and writes the counters alone. -/
theorem sample_counts {r : Bool} {s : State} (onVerdict : Verdict → State → State)
    (h : s.runCount r + 1 ≠ s.cfg.dbTh) (hth : 0 < s.cfg.dbTh) :
    (sample r onVerdict s).runCount r = s.runCount r + 1 ∧
    (sample r onVerdict s).clearCounters = s.clearCounters := by
  cases r with
  | true => rw [sample_counts_pressed onVerdict h hth]; exact ⟨rfl, rfl⟩
  | false => rw [sample_counts_released onVerdict h hth]; exact ⟨rfl, rfl⟩

theorem State.runCount_lt_dbTh {s : State} (hi : Inv s) (r : Bool) : s.runCount r < s.cfg.dbTh := by
  obtain ⟨-, -, -, ⟨-, hdbp, hdbr⟩, -, -⟩ := hi
  cases r with
  | true => exact hdbp
  | false => exact hdbr

/-- The samples `r` that complete the count, in the polling phase `p`, end with the handler of their verdict
on the state with cleared counters (R101, R103). -/
theorem runOver_samples {p : Phase} {onVerdict : Verdict → State → State} (r : Bool)
    (hrule : ∀ u : State, u.phase = p → smpRule r u = .next (sample r onVerdict u)) (n : Nat) {s : State}
    (hs : Legal s) (hp : s.phase = p) (hn : s.runCount r + n = s.cfg.dbTh) :
    runOver (List.replicate n (.smp r)) s =
      .next ((onVerdict (verdictOf r) s.clearCounters).setStim []) := by
  have hlt := State.runCount_lt_dbTh hs.2 r
  induction n generalizing s with
  | zero => omega
  | succ n ih =>
    have hexec : exec (.smp r) s = .next (sample r onVerdict s) :=
      (exec_smp_of_inv hs.2 r).trans (hrule s hp)
    rw [List.replicate_succ, runOver_cons_of_next _ hexec]
    by_cases hlast : s.runCount r + 1 = s.cfg.dbTh
    · obtain rfl : n = 0 := by omega
      rw [List.replicate_zero, runOver_nil, sample_verdict onVerdict hlast]
    · obtain ⟨hcount, hclear⟩ := sample_counts onVerdict hlast (Nat.zero_lt_of_lt hlt)
      have hcfg : (sample r onVerdict s).cfg = s.cfg := exec_cfg hexec
      have hphase : (sample r onVerdict s).phase = s.phase := congrArg (·.phase) hclear
      rw [ih (acceptedWordLeavesALegalState _ s _ hs.1 hexec) (hphase.trans hp)
        (by rw [hcount, hcfg]; omega) (by rw [hcount, hcfg]; omega), hclear]

/-- DB_TH samples `r` in the polling phase `p`, from cleared counters, are one verdict (R77). -/
theorem runOver_samples_of_cleared {p : Phase} {onVerdict : Verdict → State → State} (r : Bool)
    (hrule : ∀ u : State, u.phase = p → smpRule r u = .next (sample r onVerdict u)) {s : State}
    (hs : Legal s) (hp : s.phase = p) (hdbp : s.dbp = 0) (hdbr : s.dbr = 0) :
    runOver (List.replicate s.cfg.dbTh (.smp r)) s = .next ((onVerdict (verdictOf r) s).setStim []) := by
  have hzero : s.runCount r = 0 := by
    cases r with
    | true => exact hdbp
    | false => exact hdbr
  rw [runOver_samples r hrule s.cfg.dbTh hs hp (by rw [hzero, Nat.zero_add]),
    State.clearCounters_of_zero hdbp hdbr]

theorem toggle_frame (s : State) :
    (toggle s).cfg = s.cfg ∧ (toggle s).dbp = s.dbp ∧ (toggle s).dbr = s.dbr := by
  cases hp : s.pwr with
  | off => rw [toggle_of_off hp]; exact ⟨rfl, rfl, rfl⟩
  | on => rw [toggle_of_on hp]; exact ⟨rfl, rfl, rfl⟩

/-- CLICK from TEST toggles into the hold loop, and its release ends the iteration there (R77, R142, R143). -/
theorem runOver_click {s : State} (hs : Legal s) (hp : s.phase = .test) (hdbp : s.dbp = 0)
    (hdbr : s.dbr = 0) :
    runOver (Line.click.expand s.cfg) s =
      .next ((endIteration ((toggle s).setPhase .holdPoll)).setStim []) := by
  obtain ⟨hcfg, htdbp, htdbr⟩ := toggle_frame s
  have hpress := runOver_samples_of_cleared true (fun _ => smpRule_of_test true) hs hp hdbp hdbr
  have hidle := runOver_samples_of_cleared false (fun _ => smpRule_of_holdPoll false)
    (Legal_of_runOver hs hpress) rfl (htdbp.trans hdbp) (htdbr.trans hdbr)
  rw [Line.expand, runOver_append _ hpress, ← hcfg]
  refine hidle.trans ?_
  rw [onHoldVerdict_setStim]
  rfl

/-- Settles O51: the toggle, then the drain of the oldest entry if CLICK turned ON and there is one. -/
theorem clickTogglesOnceAndTriesOneDrain : Obligations.ClickTogglesOnceAndTriesOneDrain := by
  intro s hs hp hdbp hdbr
  rw [runOver_click hs hp hdbp hdbr]
  refine ⟨fun ho => ?_, fun x rest ho hq => ?_, fun ho hq => ?_⟩
  · rw [toggle_of_on ho, toggleOff_eq, endIteration_of_nothing (.inl rfl), ← hp]; rfl
  · rw [toggle_of_off ho, endIteration_of_entry (s := (toggleOn s).setPhase .holdPoll) rfl hq, ← hp]; rfl
  · rw [toggle_of_off ho, endIteration_of_nothing (s := (toggleOn s).setPhase .holdPoll) (.inr hq), ← hp]; rfl

end Sys2Proof.Machine
end

section
/-! PROOFS. The statements of 40_debounce.md: a sample without a verdict (R101, R103) and when a debounce call
ends (R102). -/

namespace Sys2Proof.Machine

/-! #### One sample -/

/-- In a polling phase a sample is one sample of the call, with the verdict handler of that phase (R103). -/
theorem exec_smp_of_polling {s : State} (hi : Inv s) (hp : Polling s) (r : Bool) :
    ∃ onVerdict, exec (.smp r) s = .next (sample r onVerdict s) := by
  rw [exec_smp_of_inv hi]
  obtain hp | hp := hp
  · exact ⟨_, smpRule_of_test r hp⟩
  · exact ⟨_, smpRule_of_holdPoll r hp⟩

/-- Settles O24: whatever the phase's verdict handler is, a sample without a verdict does not reach it. -/
theorem sampleWithoutVerdictOnlyCounts : Obligations.SampleWithoutVerdictOnlyCounts := by
  intro s hi hp
  have hth : 0 < s.cfg.dbTh := Nat.zero_lt_of_lt (State.runCount_lt_dbTh hi true)
  refine ⟨fun hd => ?_, fun hd => ?_⟩
  · obtain ⟨onVerdict, hexec⟩ := exec_smp_of_polling hi hp true
    rw [hexec, sample_counts_pressed onVerdict hd hth]
  · obtain ⟨onVerdict, hexec⟩ := exec_smp_of_polling hi hp false
    rw [hexec, sample_counts_released onVerdict hd hth]

/-- A sample that completes no run counts in its own counter and clears the other (R101). -/
theorem debounce_counts {r : Bool} {s : State} (hth : 0 < s.cfg.dbTh) (h : s.runCount r + 1 ≠ s.cfg.dbTh) :
    ∃ u, debounce r s = (u, none) ∧ u.cfg = s.cfg ∧
      ∀ b, u.runCount b = if b = r then s.runCount b + 1 else 0 := by
  cases r with
  | true => exact ⟨_, debounce_counts_pressed h hth, rfl, Bool.forall_bool.mpr ⟨rfl, rfl⟩⟩
  | false => exact ⟨_, debounce_counts_released h hth, rfl, Bool.forall_bool.mpr ⟨rfl, rfl⟩⟩

theorem debounce_verdict {r : Bool} {s : State} (h : s.runCount r + 1 = s.cfg.dbTh) :
    debounce r s = (s.clearCounters, some (verdictOf r)) := by
  cases r with
  | true => exact debounce_pressed h
  | false => exact debounce_released h

theorem verdictOf_injective : Function.Injective verdictOf := by decide

/-- The verdict on a sample `b` comes with a sample `b` that completes its run, and with no other. -/
theorem debounce_snd_eq_verdictOf_iff (r b : Bool) {s : State} (hth : 0 < s.cfg.dbTh) :
    (debounce r s).2 = some (verdictOf b) ↔ b = r ∧ s.runCount b + 1 = s.cfg.dbTh := by
  by_cases h : s.runCount r + 1 = s.cfg.dbTh
  · rw [debounce_verdict h, Option.some_inj, verdictOf_injective.eq_iff]
    exact ⟨fun hr => hr ▸ ⟨rfl, h⟩, fun hb => hb.1.symm⟩
  · obtain ⟨u, hu, -⟩ := debounce_counts hth h
    rw [hu]
    exact ⟨nofun, fun ⟨hb, hd⟩ => absurd (hb ▸ hd) h⟩

theorem debounce_snd_eq_none_iff (r : Bool) (s : State) :
    (debounce r s).2 = none ↔ ∀ b, (debounce r s).2 ≠ some (verdictOf b) := by
  rw [Bool.forall_bool]
  cases (debounce r s).2 with
  | none => simp
  | some v => cases v <;> simp [verdictOf]

/-! #### Runs at the end of a list of samples and within it -/

theorem EndsWithRun_iff_suffix (n : Nat) (b : Bool) (rs : List Bool) :
    EndsWithRun n b rs ↔ List.replicate n b <:+ rs :=
  exists_congr fun _ => eq_comm

theorem HasRun_iff_infix (n : Nat) (rs : List Bool) : HasRun n rs ↔ ∃ b, List.replicate n b <:+: rs :=
  exists_congr fun _ => exists_congr fun _ => exists_congr fun _ => eq_comm

@[simp] theorem EndsWithRun_zero (b : Bool) (rs : List Bool) : EndsWithRun 0 b rs := ⟨rs, by simp⟩

/-- The last sample is part of the run, and the run before it is one shorter. -/
theorem EndsWithRun_succ_append_singleton (n : Nat) (b r : Bool) (rs : List Bool) :
    EndsWithRun (n + 1) b (rs ++ [r]) ↔ b = r ∧ EndsWithRun n b rs := by
  rw [EndsWithRun, List.replicate_succ']
  constructor
  · rintro ⟨before, h⟩
    rw [← List.append_assoc] at h
    obtain ⟨hrs, hlast⟩ := List.append_inj' h rfl
    exact ⟨(List.singleton_inj.mp hlast).symm, before, hrs⟩
  · rintro ⟨rfl, before, rfl⟩
    exact ⟨before, List.append_assoc ..⟩

theorem HasRun_append_singleton (n : Nat) (r : Bool) (rs : List Bool) :
    HasRun n (rs ++ [r]) ↔ HasRun n rs ∨ ∃ b, EndsWithRun n b (rs ++ [r]) := by
  simp only [HasRun_iff_infix, EndsWithRun_iff_suffix, List.infix_concat_iff, exists_or]
  exact or_comm

theorem not_hasRun_nil {n : Nat} (h : 0 < n) : ¬ HasRun n [] := by
  simp [HasRun_iff_infix, h.ne']

/-! #### The counters of a call -/

/-- `u` is a debounce call that goes on after the samples `rs` with the parameters of `s`: each counter is
the length of the longest run of its sample at the end of `rs`, and below DB_TH (R101, R102). -/
structure CountsRuns (rs : List Bool) (s u : State) : Prop where
  cfg : u.cfg = s.cfg
  lt : ∀ b, u.runCount b < s.cfg.dbTh
  run : ∀ b n, EndsWithRun n b rs ↔ n ≤ u.runCount b

theorem CountsRuns_nil {s : State} (hth : 0 < s.cfg.dbTh) (hp : s.dbp = 0) (hr : s.dbr = 0) :
    CountsRuns [] s s := by
  have hzero (b : Bool) : s.runCount b = 0 := by
    cases b with
    | true => exact hp
    | false => exact hr
  refine ⟨rfl, fun b => (hzero b).symm ▸ hth, fun b n => ?_⟩
  simp [EndsWithRun_iff_suffix, hzero b]

/-- A verdict on the next sample says that the samples, it included, end with a run of DB_TH. -/
theorem CountsRuns.verdict_iff {rs : List Bool} {s u : State} (h : CountsRuns rs s u) (r b : Bool) :
    (debounce r u).2 = some (verdictOf b) ↔ EndsWithRun s.cfg.dbTh b (rs ++ [r]) := by
  have hlt := h.lt b
  obtain ⟨m, hm⟩ := Nat.exists_eq_add_one_of_ne_zero (Nat.ne_zero_of_lt hlt)
  rw [debounce_snd_eq_verdictOf_iff r b (h.cfg ▸ Nat.zero_lt_of_lt hlt), h.cfg, hm,
    EndsWithRun_succ_append_singleton, h.run]
  exact and_congr_right fun _ => by omega

/-- A sample without a verdict keeps the counts right. -/
theorem CountsRuns.append_singleton {rs : List Bool} {r : Bool} {s u v : State} (h : CountsRuns rs s u)
    (hv : debounce r u = (v, none)) : CountsRuns (rs ++ [r]) s v := by
  have hth : 0 < u.cfg.dbTh := h.cfg ▸ Nat.zero_lt_of_lt (h.lt r)
  have hlast : u.runCount r + 1 ≠ u.cfg.dbTh := fun hd => by simp [debounce_verdict hd] at hv
  obtain ⟨w, hw, hcfg, hcount⟩ := debounce_counts hth hlast
  obtain rfl : w = v := congrArg Prod.fst (hw.symm.trans hv)
  refine ⟨hcfg.trans h.cfg, fun b => ?_, fun b n => ?_⟩
  · rw [hcount, ← h.cfg]
    split
    case isTrue hb => exact lt_of_le_of_ne (h.cfg ▸ h.lt b) (hb ▸ hlast)
    case isFalse => exact hth
  · cases n with
    | zero => simp
    | succ n =>
      rw [EndsWithRun_succ_append_singleton, h.run, hcount]
      split
      case isTrue hb => simp [hb]
      case isFalse hb => simp [hb]

theorem debounceCall_append (rs later : List Bool) (s : State) :
    debounceCall (rs ++ later) s = (debounceCall rs s).bind (debounceCall later) := by
  induction rs generalizing s with
  | nil => rfl
  | cons x rs ih =>
    simp only [List.cons_append, debounceCall]
    split
    · exact ih _
    · rfl

theorem debounceCall_singleton_eq_some_iff (r : Bool) (u v : State) :
    debounceCall [r] u = some v ↔ debounce r u = (v, none) := by
  rw [debounceCall]
  obtain ⟨w, _ | verdict⟩ := debounce r u
  · simp [debounceCall]
  · simp

/-- A call from cleared counters counts the runs at the end of its samples, as long as it goes on. -/
theorem CountsRuns_of_debounceCall {rs : List Bool} {s u : State} (hth : 0 < s.cfg.dbTh) (hp : s.dbp = 0)
    (hr : s.dbr = 0) (h : debounceCall rs s = some u) : CountsRuns rs s u := by
  induction rs using List.reverseRecOn generalizing u with
  | nil => exact Option.some.inj h ▸ CountsRuns_nil hth hp hr
  | append_singleton rs r ih =>
    rw [debounceCall_append] at h
    obtain ⟨w, hw, hlast⟩ := Option.bind_eq_some_iff.mp h
    exact (ih hw).append_singleton ((debounceCall_singleton_eq_some_iff r w u).mp hlast)

/-- Settles O47: the call's counters are the runs at the end of its samples. -/
theorem verdictIsTheLastConsistentRun : Obligations.VerdictIsTheLastConsistentRun := by
  intro rs r s u hth hp hr h
  have hu := CountsRuns_of_debounceCall hth hp hr h
  exact ⟨hu.verdict_iff r true, hu.verdict_iff r false⟩

theorem isSome_debounceCall_singleton (r : Bool) (u : State) :
    (debounceCall [r] u).isSome = true ↔ (debounce r u).2 = none := by
  simp [Option.isSome_iff_exists, debounceCall_singleton_eq_some_iff, Prod.ext_iff]

/-- Settles O48: by induction over the samples, a new run in the list ends at its last sample, where it is a
verdict (O47). -/
theorem callGoesOnExactlyWithoutAConsistentRun : Obligations.CallGoesOnExactlyWithoutAConsistentRun := by
  intro rs s hth hp hr
  induction rs using List.reverseRecOn with
  | nil => exact iff_of_true rfl (not_hasRun_nil hth)
  | append_singleton rs r ih =>
    rw [debounceCall_append, HasRun_append_singleton, not_or, ← ih]
    cases hu : debounceCall rs s with
    | none => simp
    | some u =>
      have hverdict := (CountsRuns_of_debounceCall hth hp hr hu).verdict_iff r
      rw [Option.bind_some, isSome_debounceCall_singleton, debounce_snd_eq_none_iff]
      simp [hverdict]

end Sys2Proof.Machine
end

section
/-! PROOFS. The statements of 41_encoder.md: what an edge does to DUTY and the queue (R120 to R125). -/

namespace Sys2Proof.Machine

/-- The DUTY value that an edge gives and publishes, none at the bound in its direction (R122, R123). -/
def edgeValue (c : Config) (p : Nat) : Bool → Option Nat
  | false => if p < c.dutyMax then some (min (p + c.dutyStep) c.dutyMax) else none
  | true => if c.dutyMin < p then some (max (p - c.dutyStep) c.dutyMin) else none

theorem edgeValue_cw_of_lt {c : Config} {p : Nat} (h : p < c.dutyMax) :
    edgeValue c p false = some (min (p + c.dutyStep) c.dutyMax) := if_pos h

theorem edgeValue_cw_of_not_lt {c : Config} {p : Nat} (h : ¬ p < c.dutyMax) : edgeValue c p false = none :=
  if_neg h

theorem edgeValue_ccw_of_lt {c : Config} {p : Nat} (h : c.dutyMin < p) :
    edgeValue c p true = some (max (p - c.dutyStep) c.dutyMin) := if_pos h

theorem edgeValue_ccw_of_not_lt {c : Config} {p : Nat} (h : ¬ c.dutyMin < p) : edgeValue c p true = none :=
  if_neg h

/-- The rule of ENC publishes the value of the edge, or changes nothing at the bound (R120). -/
theorem encRule_eq (b : Bool) (s : State) :
    encRule b s = (edgeValue s.cfg s.duty b).elim s (publish · s) := by
  cases b with
  | false => show encIncrease s = _; unfold encIncrease edgeValue; split <;> rfl
  | true => show encDecrease s = _; unfold encDecrease edgeValue; split <;> rfl

/-- An edge with a value writes it to DUTY and appends it to a queue with room. -/
theorem exec_enc_of_value {s : State} {b : Bool} {v : Nat} (hi : Inv s)
    (hv : edgeValue s.cfg s.duty b = some v) :
    exec (.enc b) s =
      .next { s with duty := v, q := if s.q.length < s.cfg.qCap then s.q ++ [v] else s.q } := by
  rw [exec_enc_of_inv hi, encRule_eq, hv, Option.elim_some, publish_eq]

/-- An edge at the bound in its direction does nothing. -/
theorem exec_enc_of_bound {s : State} {b : Bool} (hi : Inv s) (hv : edgeValue s.cfg s.duty b = none) :
    exec (.enc b) s = .next s := by
  rw [exec_enc_of_inv hi, encRule_eq, hv, Option.elim_none]

/-- An ENC word that goes on has done what its rule does. -/
theorem eq_encRule_of_exec {b : Bool} {s t : State} (h : exec (.enc b) s = .next t) : t = encRule b s := by
  rw [exec_enc] at h
  exact (Host.Outcome.next.inj (guarded_next h).2).symm

/-- After an edge with a value DUTY is that value. -/
theorem duty_of_exec_enc {b : Bool} {s t : State} {v : Nat} (h : exec (.enc b) s = .next t)
    (hv : edgeValue s.cfg s.duty b = some v) : t.duty = v := by
  rw [eq_encRule_of_exec h, encRule_eq, hv, Option.elim_some, publish_eq]

/-- Settles O18: below DUTY_MAX a clockwise edge has a value, at DUTY_MAX none. -/
theorem clockwiseEdgeStepsUpAndPublishes : Obligations.ClockwiseEdgeStepsUpAndPublishes := fun _ hi =>
  ⟨fun h => exec_enc_of_value hi (edgeValue_cw_of_lt h),
    fun h => exec_enc_of_bound hi (edgeValue_cw_of_not_lt h)⟩

/-- Settles O19: above DUTY_MIN a counter-clockwise edge has a value, at DUTY_MIN none. -/
theorem counterClockwiseEdgeStepsDownAndPublishes : Obligations.CounterClockwiseEdgeStepsDownAndPublishes :=
  fun _ hi =>
    ⟨fun h => exec_enc_of_value hi (edgeValue_ccw_of_lt h),
      fun h => exec_enc_of_bound hi (edgeValue_ccw_of_not_lt h)⟩

/-- Settles O20: the bounds are multiples of DUTY_STEP like DUTY itself, so a whole step fits before them. -/
theorem clampsNeverTakeEffectInLegalStates : Obligations.ClampsNeverTakeEffectInLegalStates := by
  rintro s t ⟨⟨hmin, -, -, hmax, -⟩, ⟨⟨-, -, hduty⟩, -⟩, -⟩
  refine ⟨fun h ht => ?_, fun h ht => ?_⟩
  · have hroom : s.duty + s.cfg.dutyStep ≤ s.cfg.dutyMax := Nat.ModEq.add_le_of_lt (hduty.trans hmax.symm) h
    have hstepped := duty_of_exec_enc ht (edgeValue_cw_of_lt h)
    omega
  · have hmod : s.cfg.dutyMin % s.cfg.dutyStep = 0 := by rw [hmin, Nat.zero_mod]
    have hroom : s.cfg.dutyMin + s.cfg.dutyStep ≤ s.duty := Nat.ModEq.add_le_of_lt (hmod.trans hduty.symm) h
    have hstepped := duty_of_exec_enc ht (edgeValue_ccw_of_lt h)
    omega

/-- Settles O21: an ENC word that goes on has done its rule, which writes DUTY and Q alone. -/
theorem encoderWritesOnlyDutyAndQueue : Obligations.EncoderWritesOnlyDutyAndQueue := by
  intro b s t h
  obtain ⟨v, q, -, he⟩ := encRule_frame b s
  rw [eq_encRule_of_exec h, he]
  exact ⟨rfl, rfl, rfl, rfl, rfl, rfl, rfl, rfl, rfl⟩

/-- Settles O22: the value of an edge depends on the configuration and DUTY, the push of it on Q as well. -/
theorem encoderReadsOnlyDutyAndQueue : Obligations.EncoderReadsOnlyDutyAndQueue := by
  intro b s s' t t' hcfg hduty hq ht ht'
  rw [eq_encRule_of_exec ht, eq_encRule_of_exec ht', encRule_eq, encRule_eq, ← hcfg, ← hduty]
  cases edgeValue s.cfg s.duty b with
  | none => exact ⟨hduty, hq⟩
  | some v => simp [publish_eq, hcfg, hq]

/-- Settles O23: the edge has a value (O18, O19), and a full queue has no room for it. -/
theorem fullQueueLosesOnlyThePush : Obligations.FullQueueLosesOnlyThePush := by
  rintro b s ⟨-, hi⟩ hfull hcw hccw
  have hv : edgeValue s.cfg s.duty b = some (if b then max (s.duty - s.cfg.dutyStep) s.cfg.dutyMin
      else min (s.duty + s.cfg.dutyStep) s.cfg.dutyMax) := by
    cases b with
    | false => exact edgeValue_cw_of_lt (hcw rfl)
    | true => exact edgeValue_ccw_of_lt (hccw rfl)
  rw [exec_enc_of_value hi hv, if_neg hfull.not_lt]

end Sys2Proof.Machine
end

section
/-! PROOFS. The statements of 42_controller.md: the verdicts (R142 to R149), the hold loop (R150 to R152), the
round trip OFF and ON (R153), the knob while OFF (R154) and the drain over iterations (R148). -/

namespace Sys2Proof.Machine

/-! #### One verdict, one tick -/

@[simp] theorem State.runCount_true (s : State) : s.runCount true = s.dbp := rfl

@[simp] theorem State.runCount_false (s : State) : s.runCount false = s.dbr := rfl

@[simp] theorem State.clearCounters_cfg (s : State) : s.clearCounters.cfg = s.cfg := rfl

/-- In TEST a sample that completes its run hands its verdict to the loop's button test (R103, R142). -/
theorem exec_smp_of_test_verdict {r : Bool} {s : State} (hi : Inv s) (hp : s.phase = .test)
    (hd : s.runCount r + 1 = s.cfg.dbTh) :
    exec (.smp r) s = .next (onTestVerdict (verdictOf r) s.clearCounters) := by
  rw [exec_smp_of_inv hi, smpRule_of_test r hp, sample_verdict _ hd]

/-- In HOLD_POLL a sample that completes its run hands its verdict to the hold loop (R103, R143). -/
theorem exec_smp_of_holdPoll_verdict {r : Bool} {s : State} (hi : Inv s) (hp : s.phase = .holdPoll)
    (hd : s.runCount r + 1 = s.cfg.dbTh) :
    exec (.smp r) s = .next (onHoldVerdict (verdictOf r) s.clearCounters) := by
  rw [exec_smp_of_inv hi, smpRule_of_holdPoll r hp, sample_verdict _ hd]

/-- A RELEASED verdict ends the iteration, in TEST as in HOLD_POLL (R142, R143). -/
theorem exec_smp_of_released {s : State} (hi : Inv s) (hp : Polling s) (hd : s.dbr + 1 = s.cfg.dbTh) :
    exec (.smp false) s = .next (endIteration s.clearCounters) := by
  obtain hp | hp := hp
  · exact exec_smp_of_test_verdict (r := false) hi hp hd
  · exact exec_smp_of_holdPoll_verdict (r := false) hi hp hd

/-- A PRESSED verdict in TEST toggles into the hold loop (R142). -/
theorem exec_smp_of_pressed {s : State} (hi : Inv s) (hp : s.phase = .test) (hd : s.dbp + 1 = s.cfg.dbTh) :
    exec (.smp true) s = .next ((toggle s.clearCounters).setPhase .holdPoll) :=
  exec_smp_of_test_verdict (r := true) hi hp hd

/-- Settles O25: the verdict's toggle of an OFF state is `toggleOn`. -/
theorem pressWhileOffRestoresBrightness : Obligations.PressWhileOffRestoresBrightness := by
  intro s hi hp ho hd
  rw [exec_smp_of_pressed hi hp hd, toggle_of_off (s := s.clearCounters) ho, toggleOn_eq]
  rfl

/-- Settles O26: the verdict's toggle of an ON state is `toggleOff`. -/
theorem pressWhileOnRemembersAndTurnsOff : Obligations.PressWhileOnRemembersAndTurnsOff := by
  intro s hi hp ho hd
  rw [exec_smp_of_pressed hi hp hd, toggle_of_on (s := s.clearCounters) ho, toggleOff_eq]
  rfl

/-- Settles O27: the hold loop answers PRESSED by `enterHoldWait`, which stays in HOLD_POLL without ticks. -/
theorem pressWhileHeldStartsTheHoldWait : Obligations.PressWhileHeldStartsTheHoldWait := by
  intro s hi hp hd
  have hexec : exec (.smp true) s = .next (enterHoldWait s.clearCounters) :=
    exec_smp_of_holdPoll_verdict (r := true) hi hp hd
  rw [hexec, enterHoldWait_eq, State.clearCounters_cfg]
  refine ⟨fun hk => ?_, fun hk => ?_⟩
  · rw [if_pos hk, ← hp]; rfl
  · rw [if_neg hk]; rfl

/-- Settles O28: a RELEASED verdict ends the iteration, which drains only while ON and from a queue with an
entry. -/
theorem releaseDrainsOneEntryAndEndsTheIteration : Obligations.ReleaseDrainsOneEntryAndEndsTheIteration := by
  intro s hi hp hd
  rw [exec_smp_of_released hi hp hd]
  refine ⟨fun x rest ho hq => ?_, fun h => ?_⟩
  · rw [endIteration_of_entry (s := s.clearCounters) ho hq]; rfl
  · rw [endIteration_of_nothing (s := s.clearCounters) h]; rfl

/-- Settles O29: in HOLD_WAIT the rule of SMP is the tick, for either sample. -/
theorem holdTickCountsAndIgnoresTheSample : Obligations.HoldTickCountsAndIgnoresTheSample := by
  intro r s hi hp
  rw [exec_smp_of_inv hi, smpRule_of_holdWait r hp, holdTick_eq]
  split
  case isTrue hk => rw [hk]
  case isFalse => rw [← hp]

/-! #### Over all words: leaving the hold loop -/

/-- Settles O35: outside TEST only the end of an iteration sets PHASE to TEST. -/
theorem holdLoopEndsOnlyByReleaseOrReset : Obligations.HoldLoopEndsOnlyByReleaseOrReset := by
  intro i s t h hne ht
  obtain ⟨hrst, -⟩ | ⟨hi, ⟨-, rfl⟩ | ⟨b, -, rfl⟩ | ⟨r, rfl, hr⟩⟩ := exec_next_cases h
  · exact .inl hrst
  · exact absurd ht hne
  · obtain ⟨v, q, -, he⟩ := encRule_frame b s
    rw [he] at ht
    exact absurd ht hne
  · obtain ⟨hp, -⟩ | ⟨hp, -⟩ | ⟨hp, -, -, hheld⟩ | ⟨hp, rfl, hd, -⟩ | ⟨-, -, -, rfl⟩ | ⟨-, -, -, rfl⟩ |
      ⟨-, hticked⟩ := smpRule_cases r hi hr
    · exact absurd hp hne
    · exact absurd hp hne
    · obtain ⟨-, rfl⟩ | ⟨-, rfl⟩ := hheld
      · exact absurd ht hne
      · cases ht
    · exact .inr ⟨rfl, hp.resolve_left hne, hd⟩
    · exact absurd ht hne
    · exact absurd ht hne
    · obtain ⟨-, rfl⟩ | ⟨-, rfl⟩ := hticked
      · cases ht
      · exact absurd ht hne

/-! #### What every word of a stream keeps -/

/-- A property that every word of the stream keeps in legal states, and that does not speak of the words
still to come, holds at the end of the stream. -/
theorem runOver_keeps {P : State → Prop} {is : List Instr} {s : State} (hs : Legal s) (hP : P s)
    (hstim : ∀ u, P u → P (u.setStim []))
    (hword : ∀ i ∈ is, ∀ u v, P u → exec i u = .next v → P v) :
    ∃ t, runOver is s = .next t ∧ P t := by
  induction is generalizing s with
  | nil => exact ⟨_, runOver_nil s, hstim s hP⟩
  | cons i is ih =>
    obtain ⟨hfirst, hrest⟩ := List.forall_mem_cons.mp hword
    obtain ⟨u, hu⟩ := exec_completes i hs.2
    rw [runOver_cons_of_next is hu]
    exact ih (acceptedWordLeavesALegalState i s u hs.1 hu) (hfirst s u hP hu) hrest

/-- `u` is in the hold loop, in the power state `p`. -/
def HeldIn (p : Power) (u : State) : Prop := u.pwr = p ∧ u.phase ≠ .test

/-- In the hold loop only RST writes PWR (O31), and TEST is reached only by RST or a released sample (O35). -/
theorem HeldIn_of_exec {p : Power} {i : Instr} {u v : State} (hi : i ≠ .rst ∧ i ≠ .smp false)
    (hu : HeldIn p u) (h : exec i u = .next v) : HeldIn p v := by
  obtain ⟨hrst, hrel⟩ := hi
  obtain ⟨hpwr, hphase⟩ := hu
  refine ⟨?_, fun htest => ?_⟩
  · by_contra hne
    obtain hr | ⟨-, htest, -⟩ := powerChangesOnlyByResetOrPressInTest i u v h (hpwr ▸ hne)
    · exact hrst hr
    · exact hphase htest
  · obtain hr | ⟨hr, -⟩ := holdLoopEndsOnlyByReleaseOrReset i u v h hphase htest
    · exact hrst hr
    · exact hrel hr

/-- Settles O49: every word of the stream keeps the hold loop and the power state. -/
theorem heldButtonNeverTogglesAgain : Obligations.HeldButtonNeverTogglesAgain := fun _ _ hs hp his =>
  runOver_keeps (P := HeldIn _) hs ⟨rfl, hp⟩ (fun _ hu => hu) fun i hi _ _ => HeldIn_of_exec (his i hi)

theorem toggle_pwr_ne (s : State) : (toggle s).pwr ≠ s.pwr := by
  cases hp : s.pwr with
  | off => rw [toggle_of_off hp]; exact nofun
  | on => rw [toggle_of_on hp]; exact nofun

/-- Settles O50: the first DB_TH samples are a PRESSED verdict in TEST, which toggles into the hold loop; the
others find it there (O49). -/
theorem pressOfAnyLengthToggles : Obligations.PressOfAnyLengthToggles := by
  intro n s hs hp hdbp hn
  have hpress := runOver_samples true (fun _ => smpRule_of_test true) s.cfg.dbTh hs hp
    (by rw [State.runCount_true, hdbp, Nat.zero_add])
  obtain ⟨t, ht, hpwr, hphase⟩ := heldButtonNeverTogglesAgain (List.replicate (n - s.cfg.dbTh) (.smp true)) _
    (Legal_of_runOver hs hpress) nofun (by simp)
  refine ⟨t, ?_, hpwr ▸ toggle_pwr_ne s.clearCounters, hphase⟩
  rw [← Nat.add_sub_cancel' hn, List.replicate_add, runOver_append _ hpress, ht]

/-! #### While OFF -/

/-- `u` is OFF with the outputs of `s`, and still holds the queue of `s` (R154). -/
def HiddenSince (s u : State) : Prop := u.pwr = .off ∧ u.cc = s.cc ∧ s.q <+: u.q

/-- While OFF no word but RST and a pressed sample turns ON (O31), writes an output (O33) or takes an entry
(O34). -/
theorem HiddenSince_of_exec {i : Instr} {s u v : State} (hi : i ≠ .rst ∧ i ≠ .smp true)
    (hu : HiddenSince s u) (h : exec i u = .next v) : HiddenSince s v := by
  obtain ⟨hrst, hpress⟩ := hi
  obtain ⟨hoff, hcc, hq⟩ := hu
  have hnoton : u.pwr ≠ .on := by simp [hoff]
  refine ⟨?_, ?_, ?_⟩
  · by_contra hne
    obtain hr | ⟨hr, -⟩ := powerChangesOnlyByResetOrPressInTest i u v h (hoff ▸ hne)
    · exact hrst hr
    · exact hpress hr
  · by_contra hne
    obtain ⟨hr | ⟨hr, -⟩ | ⟨-, -, -, hon⟩, -⟩ :=
      outputsChangeOnlyTogetherAndOnlyByVerdictOrReset i u v h (hcc ▸ hne)
    · exact hrst hr
    · exact hpress hr
    · exact hnoton hon
  · obtain he | ⟨-, -, -, he⟩ | ⟨-, hon, -⟩ | ⟨hr, -⟩ := queueIsFirstInFirstOut i u v h
    · exact he ▸ hq
    · exact he ▸ hq.trans (List.prefix_append _ _)
    · exact absurd hon hnoton
    · exact absurd hr hrst

/-- Settles O53: every word of the stream keeps the block OFF, its outputs, which I2 has at 0, and its
queue. -/
theorem knobWhileOffIsInvisible : Obligations.KnobWhileOffIsInvisible := by
  intro is s hs hoff his
  obtain ⟨t, ht, hpwr, hcc, hq⟩ := runOver_keeps (P := HiddenSince s) hs ⟨hoff, rfl, List.prefix_rfl⟩
    (fun _ hu => hu) fun i hi _ _ => HiddenSince_of_exec (his i hi)
  obtain ⟨-, -, h2, -⟩ := hs
  exact ⟨t, ht, hpwr, hcc, hcc ▸ h2 hoff, hq⟩

/-! #### Turning OFF and ON again -/

/-- A word other than RST that turns the block OFF is the ON to OFF toggle (O31's writers of PWR). -/
theorem TurnsOff_of_exec {i : Instr} {s t : State} (h : exec i s = .next t) (hi : i ≠ .rst)
    (ho : s.pwr = .on) (hoff : t.pwr = .off) : TurnsOff s t := by
  obtain ⟨hrst, -⟩ | ⟨-, ht⟩ | ⟨-, ht⟩ | ⟨-, -, -, -, x, rest, -, rfl⟩ | ⟨-, hpwr, -⟩ := exec_effect_cases h
  · exact absurd hrst hi
  · obtain ⟨-, -, hwas, -⟩ := ht
    simp [ho] at hwas
  · exact ht
  · simp [ho] at hoff
  · simp [hpwr, ho] at hoff

/-- While OFF a word turns the block ON by the OFF to ON toggle, or it is RST, or it leaves PWR, REM and the
configuration. -/
theorem exec_cases_of_off {i : Instr} {s t : State} (h : exec i s = .next t) (hoff : s.pwr = .off) :
    (i = .rst ∧ t.pwr = .off) ∨ TurnsOn s t ∨ (t.pwr = .off ∧ t.rem = s.rem ∧ t.cfg = s.cfg) := by
  obtain ⟨hrst, rfl⟩ | ⟨-, ht⟩ | ⟨-, -, -, hon, -⟩ | ⟨-, -, -, hon, -⟩ | ⟨hcfg, hpwr, hrem, -⟩ :=
    exec_effect_cases h
  · exact .inl ⟨hrst, rfl⟩
  · exact .inr (.inl ht)
  · simp [hoff] at hon
  · simp [hoff] at hon
  · exact .inr (.inr ⟨hpwr.trans hoff, hrem, hcfg⟩)

theorem TurnsOn.pwr_eq {s t : State} (h : TurnsOn s t) : t.pwr = .on := by
  obtain ⟨-, -, -, rfl⟩ := h
  rfl

/-- A stream without RST on which PWR is OFF throughout leaves REM. -/
theorem rem_of_runOver_off {is : List Instr} {s t : State} (his : ∀ k ∈ is, k ≠ .rst)
    (hoff : ∀ n w, n ≤ is.length → runOver (is.take n) s = .next w → w.pwr = .off)
    (h : runOver is s = .next t) : t.pwr = .off ∧ t.rem = s.rem ∧ t.cfg = s.cfg := by
  induction is generalizing s with
  | nil =>
    cases (runOver_nil s).symm.trans h
    exact ⟨hoff 0 _ le_rfl (runOver_nil s), rfl, rfl⟩
  | cons i is ih =>
    obtain ⟨hi, his⟩ := List.forall_mem_cons.mp his
    obtain ⟨u, hu, hrun⟩ := runOver_cons_next h
    have hlater (n : Nat) (w : State) (hn : n ≤ is.length) (hw : runOver (is.take n) u = .next w) :
        w.pwr = .off :=
      hoff (n + 1) w (Nat.succ_le_succ hn) ((runOver_cons_of_next _ hu).trans hw)
    have hsoff : s.pwr = .off := hoff 0 (s.setStim []) (Nat.zero_le _) (runOver_nil s)
    have huoff : u.pwr = .off := hlater 0 (u.setStim []) (Nat.zero_le _) (runOver_nil u)
    obtain ⟨hpwr, hrem, hcfg⟩ := ih his hlater hrun
    obtain ⟨hrst, -⟩ | hon | ⟨-, hurem, hucfg⟩ := exec_cases_of_off hu hsoff
    · exact absurd hrst hi
    · simp [hon.pwr_eq] at huoff
    · exact ⟨hpwr, hrem.trans hurem, hcfg.trans hucfg⟩

/-- Settles O52: turning OFF puts DUTY in REM, the stream leaves REM, and turning ON restores it. -/
theorem offOnRoundTripRestoresDuty : Obligations.OffOnRoundTripRestoresDuty := by
  intro is i j s t u v hst hi ho hoff his hall htu huv hon
  obtain ⟨-, -, -, rfl⟩ := TurnsOff_of_exec hst hi ho hoff
  obtain ⟨huoff, hrem, hcfg⟩ := rem_of_runOver_off his hall htu
  obtain ⟨-, hvoff⟩ | ⟨-, -, -, rfl⟩ | ⟨hvoff, -⟩ := exec_cases_of_off huv huoff
  · simp [hvoff] at hon
  · simp [hrem, hcfg]
  · simp [hvoff] at hon

/-! #### The ticks of a hold wait -/

/-- A hold wait with fewer ticks left, but some, meets the invariants as it did. -/
theorem Inv_fewer_ticks {s : State} {n : Nat} (hi : Inv s) (hp : s.phase = .holdWait) (hpos : n ≠ 0)
    (hn : n ≤ s.hwc) : Inv { s with hwc := n } := by
  obtain ⟨h1, h2, h3, h4, ⟨-, hwait, -, hzero⟩, h6⟩ := hi
  obtain ⟨hdbp, hdbr⟩ := hzero hp
  have hle : n ≤ s.cfg.holdTicks := hn.trans (hwait.mp hp).2
  exact ⟨h1, h2, h3, h4, I5_of_holdWait hp (Nat.one_le_iff_ne_zero.mpr hpos) hle hdbp hdbr, h6⟩

/-- In a hold wait samples, up to as many as there are ticks left, take one tick each, and the last tick goes
to HOLD_POLL. -/
theorem runOver_holdWait (rs : List Bool) {s : State} (hi : Inv s) (hp : s.phase = .holdWait)
    (hle : rs.length ≤ s.hwc) :
    runOver (rs.map .smp) s = .next
      { s with
        hwc := s.hwc - rs.length
        phase := if s.hwc - rs.length = 0 then .holdPoll else s.phase
        stim := [] } := by
  have hpos : s.hwc ≠ 0 := by
    obtain ⟨-, -, -, -, ⟨-, hwait, -⟩, -⟩ := hi
    exact Nat.one_le_iff_ne_zero.mp (hwait.mp hp).1
  induction rs generalizing s with
  | nil => rw [List.map_nil, runOver_nil, List.length_nil, Nat.sub_zero, if_neg hpos]; rfl
  | cons r rs ih =>
    rw [List.length_cons] at hle
    rw [List.map_cons, runOver_cons_of_next _ (holdTickCountsAndIgnoresTheSample r s hi hp), List.length_cons,
      Nat.add_comm, Nat.sub_add_eq, ← hp]
    by_cases hlast : s.hwc - 1 = 0
    · obtain rfl : rs = [] := List.eq_nil_of_length_eq_zero (by omega)
      rfl
    · rw [if_neg hlast]
      exact ih (Inv_fewer_ticks hi hp hlast (Nat.sub_le _ _)) hp (Nat.le_sub_of_add_le hle) hlast

/-- Settles O54: after as many samples as ticks none is left, after fewer some are. -/
theorem holdWaitIgnoresExactlyItsTicks : Obligations.HoldWaitIgnoresExactlyItsTicks := by
  intro rs s hi hp
  refine ⟨fun hlt => ?_, fun heq => ?_⟩
  · rw [runOver_holdWait rs hi hp hlt.le, if_neg (Nat.sub_ne_zero_of_lt hlt)]
  · rw [runOver_holdWait rs hi hp heq.le, heq, Nat.sub_self, if_pos rfl]

/-! #### The queue over iterations -/

/-- `t` stands in TEST, ON, where `k` iterations from `s` have taken the first `k` entries, and the last of
these is in DUTY and on the outputs (R148). -/
structure TookEntries (k : Nat) (s t : State) : Prop where
  cfg : t.cfg = s.cfg
  pwr : t.pwr = .on
  phase : t.phase = .test
  dbr : t.dbr = 0
  rem : t.rem = s.rem
  q : t.q = s.q.drop k
  last : ∀ x, 0 < k → s.q[k - 1]? = some x → t.duty = x ∧ t.cc = List.replicate s.cfg.nCh (level s.cfg x)

/-- One iteration takes one entry more: DB_TH released samples from DBR = 0 are one RELEASED verdict. -/
theorem TookEntries.succ {k : Nat} {s t : State} (h : TookEntries k s t) (ht : Legal t)
    (hk : k < s.q.length) :
    ∃ u, runOver (List.replicate s.cfg.dbTh (.smp false)) t = .next u ∧ TookEntries (k + 1) s u := by
  have hq : t.q = s.q[k] :: s.q.drop (k + 1) := h.q.trans (List.drop_eq_getElem_cons hk)
  have hrun := runOver_samples false (fun _ => smpRule_of_test false) t.cfg.dbTh ht h.phase
    (by rw [State.runCount_false, h.dbr, Nat.zero_add])
  have hend : onTestVerdict (verdictOf false) t.clearCounters =
      { t with
        duty := s.q[k], q := s.q.drop (k + 1), cc := List.replicate t.cfg.nCh (level t.cfg s.q[k])
        phase := .test, dbp := 0, dbr := 0 } :=
    endIteration_of_entry (s := t.clearCounters) h.pwr hq
  rw [hend, h.cfg] at hrun
  refine ⟨_, hrun, rfl, h.pwr, rfl, rfl, h.rem, rfl, fun x _ hx => ?_⟩
  obtain rfl : s.q[k] = x := Option.some.inj ((List.getElem?_eq_getElem hk).symm.trans hx)
  exact ⟨rfl, rfl⟩

/-- Settles O55: by induction over the iterations, each of which takes one entry. -/
theorem queueReachesTheOutputsOneEntryPerIteration :
    Obligations.QueueReachesTheOutputsOneEntryPerIteration := by
  intro k s hs ho hp hdbr hk
  suffices ∃ t, runOver (List.replicate (k * s.cfg.dbTh) (.smp false)) s = .next t ∧ TookEntries k s t by
    obtain ⟨t, hrun, ht⟩ := this
    exact ⟨t, hrun, ht.q, ht.pwr, ht.phase, ht.rem, ht.last⟩
  induction k with
  | zero => exact ⟨s.setStim [], by rw [Nat.zero_mul]; rfl, rfl, ho, hp, hdbr, rfl, rfl, nofun⟩
  | succ k ih =>
    obtain ⟨t, hrun, ht⟩ := ih (Nat.le_of_succ_le hk)
    obtain ⟨u, hu, htook⟩ := ht.succ (Legal_of_runOver hs hrun) hk
    exact ⟨u, by rw [Nat.succ_mul, List.replicate_add, runOver_append _ hrun, hu], htook⟩

end Sys2Proof.Machine
end

section
/-! PROOFS. The statements of 43_pwm.md: the compare level (R170), Apply (R171) and the high fraction (R173). -/

namespace Sys2Proof.Machine

/-- The level of the whole percentage is the whole resolution (R170, corner case). -/
@[simp] theorem level_hundred (c : Config) : level c 100 = c.pwmRes := Nat.mul_div_cancel _ (by decide)

/-- A resolution that is a multiple `k` of 100 makes the floor exact (R170). -/
theorem level_of_pwmRes_multiple {c : Config} {k : Nat} (h : c.pwmRes = 100 * k) (p : Nat) :
    level c p = k * p := by
  rw [level, h, Nat.mul_assoc, Nat.mul_div_cancel_left _ (by decide)]

/-- Settles O37: the two inequalities are those of division by 100. -/
theorem levelIsTheFloorOfTheProduct : Obligations.LevelIsTheFloorOfTheProduct := fun c p =>
  ⟨⟨Nat.mul_div_le _ 100, Nat.lt_mul_div_succ _ (by decide)⟩, level_le_pwmRes c,
    fun h => level_of_pwmRes_multiple h p, level_zero c, level_hundred c⟩

/-- Settles O38: Apply writes CC alone, and what it writes reads only the configuration, which it keeps. -/
theorem applyWritesEveryChannelAlike : Obligations.ApplyWritesEveryChannelAlike := fun p s =>
  ⟨applyDuty_eq p s, by simp only [applyDuty_eq]⟩

/-- A level within the period is high for as many counts as it says (R173). -/
theorem highCounts_of_le {c : Config} {l : Nat} (h : l ≤ c.pwmTop + 1) : highCounts c l = l := Nat.min_eq_left h

/-- Where the period has as many counts as the resolution has levels, and these are a multiple of 100, an
output at the level of `p` is high for `p` hundredths of the period (R173). -/
theorem hundred_mul_highCounts_level {c : Config} {k p : Nat} (hk : c.pwmRes = 100 * k)
    (htop : c.pwmRes = c.pwmTop + 1) (hp : p ≤ 100) :
    100 * highCounts c (level c p) = p * (c.pwmTop + 1) := by
  have hle : level c p ≤ c.pwmTop + 1 := (level_le_pwmRes c hp).trans_eq htop
  calc 100 * highCounts c (level c p) = 100 * (k * p) := by
        rw [highCounts_of_le hle, level_of_pwmRes_multiple hk]
    _ = p * (c.pwmTop + 1) := by rw [← htop, hk, ← Nat.mul_assoc, Nat.mul_comm]

/-- Settles O39: the default resolution is 10 hundreds, and the default period has as many counts. -/
theorem highFractionIsTheDutyPercentage : Obligations.HighFractionIsTheDutyPercentage := fun _ hp =>
  hundred_mul_highCounts_level (c := Config.default) (k := 10) rfl rfl hp

end Sys2Proof.Machine
end

section
/-! PROOFS. The statements of 44_system.md: the words NOP (R190) and RST (R191). -/

namespace Sys2Proof.Machine

/-- Settles O10: NOP is the state check, which passes exactly the states that meet R34, and no change after it. -/
theorem nopCompletesExactlyInLegalStates : Obligations.NopCompletesExactlyInLegalStates := by
  intro s t
  constructor
  · intro h
    obtain ⟨hi, hr⟩ := guarded_next h
    exact ⟨hi, (Host.Outcome.next.inj hr).symm⟩
  · rintro ⟨hi, rfl⟩
    exact exec_nop_of_inv hi

/-- Settles O11: RST is not checked, and the state it answers is the reset state of R36 field by field. -/
theorem resetWordResetsEveryState : Obligations.ResetWordResetsEveryState := exec_rst_eq

end Sys2Proof.Machine
end

section
/-! PROOFS. The statements of 60_exceptions.md: the three refusals (R201, R202), what completes (R200, R214),
and runs over legal and reserved words. -/

namespace Sys2Proof.Machine

/-! #### Runs of legal words -/

/-- Settles O45: a legal state runs through every word, and each word leaves a legal state (O44). -/
theorem legalStreamsRunWithoutRefusal : Obligations.LegalStreamsRunWithoutRefusal :=
  fun is _ hs => runOver_completes is hs

/-- Settles O17: past the state check every rule answers a next state, in each phase R34 allows. -/
theorem everyWordCompletesInLegalStates : Obligations.EveryWordCompletesInLegalStates :=
  fun _ i hi => exec_completes i hi

/-! #### Reserved words -/

/-- A reserved word is refused whatever the state. -/
theorem step_of_reserved {s : State} {w : Word} {ws : List Word} (hs : s.stim = w :: ws)
    (h : decode w = none) : step s = .refused (.reservedWord w) := by
  rw [step_cons hs, stepWord, h]

/-- Settles O6: the decoder refuses before the state is examined (R202). -/
theorem reservedWordRefusedInEveryState : Obligations.ReservedWordRefusedInEveryState :=
  fun _ _ _ hs hw => ⟨step_of_reserved hs hw, rfl⟩

/-- A run of at least one step ends at the refusal of its first step (log 10). -/
theorem run_succ_of_refused {s : State} {r : Refusal} (h : step s = .refused r) (m : Nat) :
    Sys2Proof.core.run (m + 1) s = .refused r := by
  have hcore : Sys2Proof.core.step s = .refused r := h
  simp only [Host.Core.run, hcore]

/-- Settles O46: the legal words run to their end (O45) in front of the reserved word, and a longer run
takes at least one step more, the one that refuses that word. -/
theorem refusalIsKeptForTheRestOfTheRun : Obligations.RefusalIsKeptForTheRestOfTheRun := by
  intro is w ws s k hs hw
  obtain ⟨t, hrun, -⟩ := runOver_completes is hs
  constructor
  · exact ⟨t.setStim (w :: ws), run_words_append (w :: ws) 0 hrun, rfl⟩
  · intro hk
    obtain ⟨m, rfl⟩ := Nat.exists_eq_add_of_lt hk
    calc Sys2Proof.core.run (is.length + (m + 1)) (s.setStim (is.map encode ++ w :: ws))
        = Sys2Proof.core.run (m + 1) (t.setStim (w :: ws)) := run_words_append (w :: ws) (m + 1) hrun
      _ = .refused (Refusal.reservedWord w) := run_succ_of_refused (step_of_reserved rfl hw) m

/-! #### States outside R34 -/

/-- Settles O14: the state check reports PHASE = 3 before any other break. -/
theorem reservedPhaseRefusedWithCodeTwo : Obligations.ReservedPhaseRefusedWithCodeTwo :=
  fun _ _ hp hn => ⟨exec_of_check hn (stateCheck_of_reserved hp), rfl⟩

/-- Any word but RST is refused with the first broken register when PHASE is not 3. -/
theorem exec_of_firstBroken {i : Instr} {s : State} {r : Reg} (hn : i ≠ .rst) (hp : s.phase ≠ .reserved)
    (h : firstBroken s = some r) : exec i s = .refused (.stateOutOfInvariant r) :=
  exec_of_check hn (by rw [stateCheck_of_broken hp, h]; rfl)

/-- Settles O15: the register is the first broken one, which does not depend on the word. -/
theorem brokenInvariantRefusedWithCodeThree : Obligations.BrokenInvariantRefusedWithCodeThree := by
  intro s hp hi
  obtain ⟨r, hr⟩ := Option.ne_none_iff_exists'.mp (mt (firstBroken_eq_none_iff s).mp hi)
  exact ⟨r, rfl, fun i hn => exec_of_firstBroken hn hp hr⟩

/-- The register that a refusal with code 3 records is the first broken one. -/
theorem exec_eq_stateOutOfInvariant_iff {i : Instr} {s : State} (hn : i ≠ .rst) (hp : s.phase ≠ .reserved)
    (r : Reg) : exec i s = .refused (.stateOutOfInvariant r) ↔ firstBroken s = some r := by
  refine ⟨fun h => ?_, exec_of_firstBroken hn hp⟩
  cases hb : firstBroken s with
  | none =>
    obtain ⟨t, ht⟩ := exec_completes i ((firstBroken_eq_none_iff s).mp hb)
    cases ht.symm.trans h
  | some r' =>
    cases (exec_of_firstBroken hn hp hb).symm.trans h
    rfl

/-- The list of R201 in index order: either a register's own part of R34 is broken and it is the one
reported, or the part holds and a later register is. -/
theorem firstBroken_eq_some_iff (s : State) (r : Reg) : firstBroken s = some r ↔
    ¬ I2 s ∧ r = .pwr ∨ I2 s ∧
    (¬ s.cfg.LegalDuty s.duty ∧ r = .duty ∨ s.cfg.LegalDuty s.duty ∧
    (¬ s.cfg.LegalDuty s.rem ∧ r = .rem ∨ s.cfg.LegalDuty s.rem ∧
    (¬ I5 s ∧ r = .phase ∨ I5 s ∧
    (¬ ((s.dbp = 0 ∨ s.dbr = 0) ∧ s.dbp < s.cfg.dbTh) ∧ r = .dbp ∨
      ((s.dbp = 0 ∨ s.dbr = 0) ∧ s.dbp < s.cfg.dbTh) ∧
    (¬ s.dbr < s.cfg.dbTh ∧ r = .dbr ∨ s.dbr < s.cfg.dbTh ∧
    (¬ I6 s ∧ r = .qlen ∨ I6 s ∧
    (¬ I3 s ∧ r = .cc 0 ∨ I3 s ∧
    ((¬ ∀ x ∈ s.q, s.cfg.LegalDuty x) ∧ r = .q)))))))) := by
  simp only [firstBroken, ite_eq_iff, not_not, Option.some.injEq, reduceCtorEq, and_false, or_false,
    eq_comm (b := r)]

/-- The parts of PHASE, DBP and DBR together are I5 and I4 (log 8). -/
theorem I5_and_counters_iff (s : State) (p : Prop) :
    I5 s ∧ ((s.dbp = 0 ∨ s.dbr = 0) ∧ s.dbp < s.cfg.dbTh) ∧ s.dbr < s.cfg.dbTh ∧ p ↔ I4 s ∧ I5 s ∧ p := by
  rw [and_left_comm (a := I4 s)]
  simp only [I4, and_assoc]

/-- HWC and the channels past the first have no part of R34 of their own. -/
theorem mem_of_firstBroken {s : State} {r : Reg} (h : firstBroken s = some r) :
    r ∈ [Reg.pwr, .duty, .rem, .phase, .dbp, .dbr, .qlen, .cc 0, .q] := by
  obtain ⟨-, rfl⟩ | ⟨-, ⟨-, rfl⟩ | ⟨-, ⟨-, rfl⟩ | ⟨-, ⟨-, rfl⟩ | ⟨-, ⟨-, rfl⟩ | ⟨-, ⟨-, rfl⟩ |
    ⟨-, ⟨-, rfl⟩ | ⟨-, ⟨-, rfl⟩ | ⟨-, -, rfl⟩⟩⟩⟩⟩⟩⟩⟩ := (firstBroken_eq_some_iff s r).mp h <;> decide

/-- Settles O16: the recorded register is the first broken one, and for each register the list of R201
leaves its own part broken with the parts before it intact. -/
theorem recordedRegisterIsTheFirstBroken : Obligations.RecordedRegisterIsTheFirstBroken := by
  intro s i hn hp
  simp only [exec_eq_stateOutOfInvariant_iff hn hp]
  refine ⟨?pwr, ?duty, ?rem, ?phase, ?dbp, ?dbr, ?qlen, ?cc, ?q, fun r => mem_of_firstBroken⟩ <;>
    simp only [firstBroken_eq_some_iff, I5_and_counters_iff, reduceCtorEq, and_false, false_or, and_true,
      or_false]

end Sys2Proof.Machine
end
